-- ==== Sys2Proof/Word.lean ====
section
/-! DEFINITION. The word types of the block: the widths of `00_scope.md` R3 and R6 and nothing more. -/

namespace Sys2Proof

abbrev Byte := BitVec 8
/-- 32 bits (`00_scope.md` section 8: "Word = 32 bits"). -/
abbrev Word := BitVec 32
/-- 64 bits. -/
abbrev DWord := BitVec 64
/-- 128 bits, the width of a general register (`10_state.md` R11). -/
abbrev QWord := BitVec 128
/-- A virtual address (`VA_BITS` = 32, R3). -/
abbrev VAddr := BitVec 32
/-- A physical address (`PA_BITS` = 29, R3, R47). -/
abbrev PAddr := BitVec 29
/-- The number of a general register or of a privileged control slot: a 5-bit field (R13, R20). -/
abbrev Reg := BitVec 5

end Sys2Proof
end

