-- ==== Sys2Proof/Syntax.lean ====
section
/-! DEFINITION. The instructions: one constructor for each of the 113 rows of `opcode_table.json`
(`30_encoding.md` R76), operands in the assembler's order (R86). A register or control-slot operand is a 5-bit
number, so that no operand can be out of range (U13). The operands of `SYSCALL`, `BREAK`, `SYNC`, `CACHE` and
`PREF` that hardware does not examine (R84) are kept as syntax; the bits R83 calls ignored are not (log 24). -/

namespace Sys2Proof

inductive Instr
  -- jumps and branches (`41_branch_jump.md`)
  | j (index : BitVec 26)
  | jal (index : BitVec 26)
  | jr (rs : Reg)
  | jalr (rd rs : Reg)
  | beq (rs rt : Reg) (offset : BitVec 16)
  | bne (rs rt : Reg) (offset : BitVec 16)
  | blez (rs : Reg) (offset : BitVec 16)
  | bgtz (rs : Reg) (offset : BitVec 16)
  | bltz (rs : Reg) (offset : BitVec 16)
  | bgez (rs : Reg) (offset : BitVec 16)
  | beql (rs rt : Reg) (offset : BitVec 16)
  | bnel (rs rt : Reg) (offset : BitVec 16)
  | blezl (rs : Reg) (offset : BitVec 16)
  | bgtzl (rs : Reg) (offset : BitVec 16)
  | bltzl (rs : Reg) (offset : BitVec 16)
  | bgezl (rs : Reg) (offset : BitVec 16)
  | bltzal (rs : Reg) (offset : BitVec 16)
  | bgezal (rs : Reg) (offset : BitVec 16)
  | bltzall (rs : Reg) (offset : BitVec 16)
  | bgezall (rs : Reg) (offset : BitVec 16)
  -- aligned loads and stores (`42_load_store.md`)
  | lb (rt base : Reg) (offset : BitVec 16)
  | lbu (rt base : Reg) (offset : BitVec 16)
  | lh (rt base : Reg) (offset : BitVec 16)
  | lhu (rt base : Reg) (offset : BitVec 16)
  | lw (rt base : Reg) (offset : BitVec 16)
  | lwu (rt base : Reg) (offset : BitVec 16)
  | ld (rt base : Reg) (offset : BitVec 16)
  | lq (rt base : Reg) (offset : BitVec 16)
  | sb (rt base : Reg) (offset : BitVec 16)
  | sh (rt base : Reg) (offset : BitVec 16)
  | sw (rt base : Reg) (offset : BitVec 16)
  | sd (rt base : Reg) (offset : BitVec 16)
  | sq (rt base : Reg) (offset : BitVec 16)
  -- left/right loads and stores (`43_unaligned.md`)
  | lwl (rt base : Reg) (offset : BitVec 16)
  | lwr (rt base : Reg) (offset : BitVec 16)
  | ldl (rt base : Reg) (offset : BitVec 16)
  | ldr (rt base : Reg) (offset : BitVec 16)
  | swl (rt base : Reg) (offset : BitVec 16)
  | swr (rt base : Reg) (offset : BitVec 16)
  | sdl (rt base : Reg) (offset : BitVec 16)
  | sdr (rt base : Reg) (offset : BitVec 16)
  -- arithmetic, logical, compare, shift (`44_alu.md`)
  | add (rd rs rt : Reg)
  | addu (rd rs rt : Reg)
  | sub (rd rs rt : Reg)
  | subu (rd rs rt : Reg)
  | addi (rt rs : Reg) (imm : BitVec 16)
  | addiu (rt rs : Reg) (imm : BitVec 16)
  | dadd (rd rs rt : Reg)
  | daddu (rd rs rt : Reg)
  | dsub (rd rs rt : Reg)
  | dsubu (rd rs rt : Reg)
  | daddi (rt rs : Reg) (imm : BitVec 16)
  | daddiu (rt rs : Reg) (imm : BitVec 16)
  | and (rd rs rt : Reg)
  | or (rd rs rt : Reg)
  | xor (rd rs rt : Reg)
  | nor (rd rs rt : Reg)
  | andi (rt rs : Reg) (imm : BitVec 16)
  | ori (rt rs : Reg) (imm : BitVec 16)
  | xori (rt rs : Reg) (imm : BitVec 16)
  | lui (rt : Reg) (imm : BitVec 16)
  | slt (rd rs rt : Reg)
  | sltu (rd rs rt : Reg)
  | slti (rt rs : Reg) (imm : BitVec 16)
  | sltiu (rt rs : Reg) (imm : BitVec 16)
  | sll (rd rt : Reg) (sa : BitVec 5)
  | srl (rd rt : Reg) (sa : BitVec 5)
  | sra (rd rt : Reg) (sa : BitVec 5)
  | sllv (rd rt rs : Reg)
  | srlv (rd rt rs : Reg)
  | srav (rd rt rs : Reg)
  | dsll (rd rt : Reg) (sa : BitVec 5)
  | dsrl (rd rt : Reg) (sa : BitVec 5)
  | dsra (rd rt : Reg) (sa : BitVec 5)
  | dsll32 (rd rt : Reg) (sa : BitVec 5)
  | dsrl32 (rd rt : Reg) (sa : BitVec 5)
  | dsra32 (rd rt : Reg) (sa : BitVec 5)
  | dsllv (rd rt rs : Reg)
  | dsrlv (rd rt rs : Reg)
  | dsrav (rd rt rs : Reg)
  -- multiply, divide, HI/LO moves (`45_muldiv.md`)
  | mult (rd rs rt : Reg)
  | multu (rd rs rt : Reg)
  | mult1 (rd rs rt : Reg)
  | multu1 (rd rs rt : Reg)
  | div (rs rt : Reg)
  | divu (rs rt : Reg)
  | div1 (rs rt : Reg)
  | divu1 (rs rt : Reg)
  | mfhi (rd : Reg)
  | mflo (rd : Reg)
  | mthi (rs : Reg)
  | mtlo (rs : Reg)
  | mfhi1 (rd : Reg)
  | mflo1 (rd : Reg)
  | mthi1 (rs : Reg)
  | mtlo1 (rs : Reg)
  -- conditional moves (`46_move_cond.md`)
  | movz (rd rs rt : Reg)
  | movn (rd rs rt : Reg)
  -- system (`47_system_cop0.md`); the slot of a privileged move is the `rd` field
  | nop
  | syscall (code : BitVec 20)
  | breakpoint (code : BitVec 20)
  | mfc0 (rt slot : Reg)
  | mtc0 (rt slot : Reg)
  | eret
  | ei
  | di
  | sync (stype : BitVec 5)
  | cache (operation base : Reg) (offset : BitVec 16)
  | pref (hint base : Reg) (offset : BitVec 16)
  | tlbr
  | tlbwi
  | tlbwr
  | tlbp
deriving DecidableEq, Repr

end Sys2Proof
end

