-- ==== Sys2Proof/WellFormed.lean ====
section
/-! DEFINITION. Which instructions have a word of their own. Every operand is a bit field of exactly its width,
so one term only is ill-formed: the shift whose word is the all-zero word, which is `NOP` and not `SLL`
(`30_encoding.md` R82). -/

namespace Sys2Proof

/-- `SLL $0, $0, 0` has no word of its own: `0x00000000` is taken as `NOP` before dispatch (R74 step 1, R82). -/
def Instr.wf : Instr → Bool
  | .sll rd rt sa => !(rd == 0#5 && rt == 0#5 && sa == 0#5)
  | _ => true

end Sys2Proof
end

