-- ==== Sys2Proof/Decode.lean ====
section
/-! DEFINITION. The decoder (`30_encoding.md` R70 to R85), total on every word and rejecting by name, and after it
the encoder written from the same maps. Field positions and opcode numbers are the spec's (R71 to R81), which it
marks "from general knowledge, not in source" (D2; log 28). -/

namespace Sys2Proof

/-! ### Fields (R71) -/

def opField (w : Word) : BitVec 6 := w.extractLsb' 26 6
def rsField (w : Word) : Reg := w.extractLsb' 21 5
def rtField (w : Word) : Reg := w.extractLsb' 16 5
def rdField (w : Word) : Reg := w.extractLsb' 11 5
def saField (w : Word) : BitVec 5 := w.extractLsb' 6 5
def functField (w : Word) : BitVec 6 := w.extractLsb' 0 6
/-- `imm`, also named `offset`. -/
def immField (w : Word) : BitVec 16 := w.extractLsb' 0 16
def indexField (w : Word) : BitVec 26 := w.extractLsb' 0 26
/-- The software code of `SYSCALL` and `BREAK`. -/
def codeField (w : Word) : BitVec 20 := w.extractLsb' 6 20

/-- Why a word is a decode failure (R80): the map that has `-` in the selected cell. -/
inductive DecodeError
  /-- The primary opcode map (R75). -/
  | primary (op : BitVec 6)
  /-- The SPECIAL map (R77). -/
  | special (funct : BitVec 6)
  /-- The REGIMM map (R78). -/
  | regimm (rt : BitVec 5)
  /-- The COP0 map by `rs` (R79). -/
  | cop0 (rs : BitVec 5)
  /-- The COP0 map by `funct` when `rs = 0x10` (R79). -/
  | cop0Co (funct : BitVec 6)
  /-- The MMI map (R81). -/
  | mmi (funct : BitVec 6)
deriving DecidableEq, Repr

/-! ### The decoder -/

/-- The SPECIAL map (R77). -/
def decodeSpecial (w : Word) : Except DecodeError Instr :=
  match functField w with
  | 0x00#6 => .ok (.sll (rdField w) (rtField w) (saField w))
  | 0x02#6 => .ok (.srl (rdField w) (rtField w) (saField w))
  | 0x03#6 => .ok (.sra (rdField w) (rtField w) (saField w))
  | 0x04#6 => .ok (.sllv (rdField w) (rtField w) (rsField w))
  | 0x06#6 => .ok (.srlv (rdField w) (rtField w) (rsField w))
  | 0x07#6 => .ok (.srav (rdField w) (rtField w) (rsField w))
  | 0x08#6 => .ok (.jr (rsField w))
  | 0x09#6 => .ok (.jalr (rdField w) (rsField w))
  | 0x0A#6 => .ok (.movz (rdField w) (rsField w) (rtField w))
  | 0x0B#6 => .ok (.movn (rdField w) (rsField w) (rtField w))
  | 0x0C#6 => .ok (.syscall (codeField w))
  | 0x0D#6 => .ok (.breakpoint (codeField w))
  | 0x0F#6 => .ok (.sync (saField w))
  | 0x10#6 => .ok (.mfhi (rdField w))
  | 0x11#6 => .ok (.mthi (rsField w))
  | 0x12#6 => .ok (.mflo (rdField w))
  | 0x13#6 => .ok (.mtlo (rsField w))
  | 0x14#6 => .ok (.dsllv (rdField w) (rtField w) (rsField w))
  | 0x16#6 => .ok (.dsrlv (rdField w) (rtField w) (rsField w))
  | 0x17#6 => .ok (.dsrav (rdField w) (rtField w) (rsField w))
  | 0x18#6 => .ok (.mult (rdField w) (rsField w) (rtField w))
  | 0x19#6 => .ok (.multu (rdField w) (rsField w) (rtField w))
  | 0x1A#6 => .ok (.div (rsField w) (rtField w))
  | 0x1B#6 => .ok (.divu (rsField w) (rtField w))
  | 0x20#6 => .ok (.add (rdField w) (rsField w) (rtField w))
  | 0x21#6 => .ok (.addu (rdField w) (rsField w) (rtField w))
  | 0x22#6 => .ok (.sub (rdField w) (rsField w) (rtField w))
  | 0x23#6 => .ok (.subu (rdField w) (rsField w) (rtField w))
  | 0x24#6 => .ok (.and (rdField w) (rsField w) (rtField w))
  | 0x25#6 => .ok (.or (rdField w) (rsField w) (rtField w))
  | 0x26#6 => .ok (.xor (rdField w) (rsField w) (rtField w))
  | 0x27#6 => .ok (.nor (rdField w) (rsField w) (rtField w))
  | 0x2A#6 => .ok (.slt (rdField w) (rsField w) (rtField w))
  | 0x2B#6 => .ok (.sltu (rdField w) (rsField w) (rtField w))
  | 0x2C#6 => .ok (.dadd (rdField w) (rsField w) (rtField w))
  | 0x2D#6 => .ok (.daddu (rdField w) (rsField w) (rtField w))
  | 0x2E#6 => .ok (.dsub (rdField w) (rsField w) (rtField w))
  | 0x2F#6 => .ok (.dsubu (rdField w) (rsField w) (rtField w))
  | 0x38#6 => .ok (.dsll (rdField w) (rtField w) (saField w))
  | 0x3A#6 => .ok (.dsrl (rdField w) (rtField w) (saField w))
  | 0x3B#6 => .ok (.dsra (rdField w) (rtField w) (saField w))
  | 0x3C#6 => .ok (.dsll32 (rdField w) (rtField w) (saField w))
  | 0x3E#6 => .ok (.dsrl32 (rdField w) (rtField w) (saField w))
  | 0x3F#6 => .ok (.dsra32 (rdField w) (rtField w) (saField w))
  | funct => .error (.special funct)

/-- The REGIMM map (R78). -/
def decodeRegimm (w : Word) : Except DecodeError Instr :=
  match rtField w with
  | 0x00#5 => .ok (.bltz (rsField w) (immField w))
  | 0x01#5 => .ok (.bgez (rsField w) (immField w))
  | 0x02#5 => .ok (.bltzl (rsField w) (immField w))
  | 0x03#5 => .ok (.bgezl (rsField w) (immField w))
  | 0x10#5 => .ok (.bltzal (rsField w) (immField w))
  | 0x11#5 => .ok (.bgezal (rsField w) (immField w))
  | 0x12#5 => .ok (.bltzall (rsField w) (immField w))
  | 0x13#5 => .ok (.bgezall (rsField w) (immField w))
  | rt => .error (.regimm rt)

/-- The COP0 map for `rs = 0x10` (R79; bits 20:6 are ignored, C9). -/
def decodeCop0Co (w : Word) : Except DecodeError Instr :=
  match functField w with
  | 0x01#6 => .ok .tlbr
  | 0x02#6 => .ok .tlbwi
  | 0x06#6 => .ok .tlbwr
  | 0x08#6 => .ok .tlbp
  | 0x18#6 => .ok .eret
  | 0x38#6 => .ok .ei
  | 0x39#6 => .ok .di
  | funct => .error (.cop0Co funct)

/-- The COP0 map (R79). -/
def decodeCop0 (w : Word) : Except DecodeError Instr :=
  match rsField w with
  | 0x00#5 => .ok (.mfc0 (rtField w) (rdField w))
  | 0x04#5 => .ok (.mtc0 (rtField w) (rdField w))
  | 0x10#5 => decodeCop0Co w
  | rs => .error (.cop0 rs)

/-- The MMI map (R81). -/
def decodeMmi (w : Word) : Except DecodeError Instr :=
  match functField w with
  | 0x10#6 => .ok (.mfhi1 (rdField w))
  | 0x11#6 => .ok (.mthi1 (rsField w))
  | 0x12#6 => .ok (.mflo1 (rdField w))
  | 0x13#6 => .ok (.mtlo1 (rsField w))
  | 0x18#6 => .ok (.mult1 (rdField w) (rsField w) (rtField w))
  | 0x19#6 => .ok (.multu1 (rdField w) (rsField w) (rtField w))
  | 0x1A#6 => .ok (.div1 (rsField w) (rtField w))
  | 0x1B#6 => .ok (.divu1 (rsField w) (rtField w))
  | funct => .error (.mmi funct)

/-- The primary opcode map (R75). -/
def decodePrimary (w : Word) : Except DecodeError Instr :=
  match opField w with
  | 0x00#6 => decodeSpecial w
  | 0x01#6 => decodeRegimm w
  | 0x02#6 => .ok (.j (indexField w))
  | 0x03#6 => .ok (.jal (indexField w))
  | 0x04#6 => .ok (.beq (rsField w) (rtField w) (immField w))
  | 0x05#6 => .ok (.bne (rsField w) (rtField w) (immField w))
  | 0x06#6 => .ok (.blez (rsField w) (immField w))
  | 0x07#6 => .ok (.bgtz (rsField w) (immField w))
  | 0x08#6 => .ok (.addi (rtField w) (rsField w) (immField w))
  | 0x09#6 => .ok (.addiu (rtField w) (rsField w) (immField w))
  | 0x0A#6 => .ok (.slti (rtField w) (rsField w) (immField w))
  | 0x0B#6 => .ok (.sltiu (rtField w) (rsField w) (immField w))
  | 0x0C#6 => .ok (.andi (rtField w) (rsField w) (immField w))
  | 0x0D#6 => .ok (.ori (rtField w) (rsField w) (immField w))
  | 0x0E#6 => .ok (.xori (rtField w) (rsField w) (immField w))
  | 0x0F#6 => .ok (.lui (rtField w) (immField w))
  | 0x10#6 => decodeCop0 w
  | 0x14#6 => .ok (.beql (rsField w) (rtField w) (immField w))
  | 0x15#6 => .ok (.bnel (rsField w) (rtField w) (immField w))
  | 0x16#6 => .ok (.blezl (rsField w) (immField w))
  | 0x17#6 => .ok (.bgtzl (rsField w) (immField w))
  | 0x18#6 => .ok (.daddi (rtField w) (rsField w) (immField w))
  | 0x19#6 => .ok (.daddiu (rtField w) (rsField w) (immField w))
  | 0x1A#6 => .ok (.ldl (rtField w) (rsField w) (immField w))
  | 0x1B#6 => .ok (.ldr (rtField w) (rsField w) (immField w))
  | 0x1C#6 => decodeMmi w
  | 0x1E#6 => .ok (.lq (rtField w) (rsField w) (immField w))
  | 0x1F#6 => .ok (.sq (rtField w) (rsField w) (immField w))
  | 0x20#6 => .ok (.lb (rtField w) (rsField w) (immField w))
  | 0x21#6 => .ok (.lh (rtField w) (rsField w) (immField w))
  | 0x22#6 => .ok (.lwl (rtField w) (rsField w) (immField w))
  | 0x23#6 => .ok (.lw (rtField w) (rsField w) (immField w))
  | 0x24#6 => .ok (.lbu (rtField w) (rsField w) (immField w))
  | 0x25#6 => .ok (.lhu (rtField w) (rsField w) (immField w))
  | 0x26#6 => .ok (.lwr (rtField w) (rsField w) (immField w))
  | 0x27#6 => .ok (.lwu (rtField w) (rsField w) (immField w))
  | 0x28#6 => .ok (.sb (rtField w) (rsField w) (immField w))
  | 0x29#6 => .ok (.sh (rtField w) (rsField w) (immField w))
  | 0x2A#6 => .ok (.swl (rtField w) (rsField w) (immField w))
  | 0x2B#6 => .ok (.sw (rtField w) (rsField w) (immField w))
  | 0x2C#6 => .ok (.sdl (rtField w) (rsField w) (immField w))
  | 0x2D#6 => .ok (.sdr (rtField w) (rsField w) (immField w))
  | 0x2E#6 => .ok (.swr (rtField w) (rsField w) (immField w))
  | 0x2F#6 => .ok (.cache (rtField w) (rsField w) (immField w))
  | 0x33#6 => .ok (.pref (rtField w) (rsField w) (immField w))
  | 0x37#6 => .ok (.ld (rtField w) (rsField w) (immField w))
  | 0x3F#6 => .ok (.sd (rtField w) (rsField w) (immField w))
  | op => .error (.primary op)

/-- The instruction a word stands for (R74): the all-zero word first (R82), then the maps. -/
def decode (w : Word) : Except DecodeError Instr :=
  if w = 0#32 then .ok .nop else decodePrimary w

/-- Four bytes of memory, lowest address first, as a word: little-endian (R70, `20_memory.md` R55). -/
def wordOfBytes (b0 b1 b2 b3 : Byte) : Word := b3 ++ b2 ++ b1 ++ b0

/-- The instruction at the head of a list of bytes, with the bytes after it (R70, R85: every instruction is 4
bytes long). None where the bytes run out or the word is a decode failure. -/
def decodeBytes : List Byte → Option (Instr × List Byte)
  | b0 :: b1 :: b2 :: b3 :: rest =>
    match decode (wordOfBytes b0 b1 b2 b3) with
    | .ok i => some (i, rest)
    | .error _ => none
  | _ => none

/-- The four bytes of an instruction's bits as the hardware stores them, bits from `nbits` up being 0. -/
def bytesOfTableWord (nbits w : Nat) : List Byte :=
  let bits := w % 2 ^ nbits
  [BitVec.ofNat 8 bits, BitVec.ofNat 8 (bits >>> 8), BitVec.ofNat 8 (bits >>> 16), BitVec.ofNat 8 (bits >>> 24)]

/-- The decoder on an instruction written as `opcode_table.json` numbers its bits. -/
def decodeTableWord (nbits w : Nat) : Option Instr :=
  (decodeBytes (bytesOfTableWord nbits w)).map Prod.fst

/-! ### The encoder -/

/-- R-type (R72). -/
def rType (op : BitVec 6) (rs rt rd : Reg) (sa : BitVec 5) (funct : BitVec 6) : Word :=
  op ++ rs ++ rt ++ rd ++ sa ++ funct

/-- I-type (R72). -/
def iType (op : BitVec 6) (rs rt : Reg) (imm : BitVec 16) : Word :=
  op ++ rs ++ rt ++ imm

/-- J-type (R72). -/
def jType (op : BitVec 6) (index : BitVec 26) : Word :=
  op ++ index

/-- SPECIAL with a software code in bits 25:6 (R71). -/
def codeType (code : BitVec 20) (funct : BitVec 6) : Word :=
  0x00#6 ++ code ++ funct

/-- The word of an instruction, bits that R83 ignores being 0. -/
def encode : Instr → Word
  | .j index => jType 0x02#6 index
  | .jal index => jType 0x03#6 index
  | .jr rs => rType 0x00#6 rs 0#5 0#5 0#5 0x08#6
  | .jalr rd rs => rType 0x00#6 rs 0#5 rd 0#5 0x09#6
  | .beq rs rt offset => iType 0x04#6 rs rt offset
  | .bne rs rt offset => iType 0x05#6 rs rt offset
  | .blez rs offset => iType 0x06#6 rs 0#5 offset
  | .bgtz rs offset => iType 0x07#6 rs 0#5 offset
  | .bltz rs offset => iType 0x01#6 rs 0x00#5 offset
  | .bgez rs offset => iType 0x01#6 rs 0x01#5 offset
  | .beql rs rt offset => iType 0x14#6 rs rt offset
  | .bnel rs rt offset => iType 0x15#6 rs rt offset
  | .blezl rs offset => iType 0x16#6 rs 0#5 offset
  | .bgtzl rs offset => iType 0x17#6 rs 0#5 offset
  | .bltzl rs offset => iType 0x01#6 rs 0x02#5 offset
  | .bgezl rs offset => iType 0x01#6 rs 0x03#5 offset
  | .bltzal rs offset => iType 0x01#6 rs 0x10#5 offset
  | .bgezal rs offset => iType 0x01#6 rs 0x11#5 offset
  | .bltzall rs offset => iType 0x01#6 rs 0x12#5 offset
  | .bgezall rs offset => iType 0x01#6 rs 0x13#5 offset
  | .lb rt base offset => iType 0x20#6 base rt offset
  | .lbu rt base offset => iType 0x24#6 base rt offset
  | .lh rt base offset => iType 0x21#6 base rt offset
  | .lhu rt base offset => iType 0x25#6 base rt offset
  | .lw rt base offset => iType 0x23#6 base rt offset
  | .lwu rt base offset => iType 0x27#6 base rt offset
  | .ld rt base offset => iType 0x37#6 base rt offset
  | .lq rt base offset => iType 0x1E#6 base rt offset
  | .sb rt base offset => iType 0x28#6 base rt offset
  | .sh rt base offset => iType 0x29#6 base rt offset
  | .sw rt base offset => iType 0x2B#6 base rt offset
  | .sd rt base offset => iType 0x3F#6 base rt offset
  | .sq rt base offset => iType 0x1F#6 base rt offset
  | .lwl rt base offset => iType 0x22#6 base rt offset
  | .lwr rt base offset => iType 0x26#6 base rt offset
  | .ldl rt base offset => iType 0x1A#6 base rt offset
  | .ldr rt base offset => iType 0x1B#6 base rt offset
  | .swl rt base offset => iType 0x2A#6 base rt offset
  | .swr rt base offset => iType 0x2E#6 base rt offset
  | .sdl rt base offset => iType 0x2C#6 base rt offset
  | .sdr rt base offset => iType 0x2D#6 base rt offset
  | .add rd rs rt => rType 0x00#6 rs rt rd 0#5 0x20#6
  | .addu rd rs rt => rType 0x00#6 rs rt rd 0#5 0x21#6
  | .sub rd rs rt => rType 0x00#6 rs rt rd 0#5 0x22#6
  | .subu rd rs rt => rType 0x00#6 rs rt rd 0#5 0x23#6
  | .addi rt rs imm => iType 0x08#6 rs rt imm
  | .addiu rt rs imm => iType 0x09#6 rs rt imm
  | .dadd rd rs rt => rType 0x00#6 rs rt rd 0#5 0x2C#6
  | .daddu rd rs rt => rType 0x00#6 rs rt rd 0#5 0x2D#6
  | .dsub rd rs rt => rType 0x00#6 rs rt rd 0#5 0x2E#6
  | .dsubu rd rs rt => rType 0x00#6 rs rt rd 0#5 0x2F#6
  | .daddi rt rs imm => iType 0x18#6 rs rt imm
  | .daddiu rt rs imm => iType 0x19#6 rs rt imm
  | .and rd rs rt => rType 0x00#6 rs rt rd 0#5 0x24#6
  | .or rd rs rt => rType 0x00#6 rs rt rd 0#5 0x25#6
  | .xor rd rs rt => rType 0x00#6 rs rt rd 0#5 0x26#6
  | .nor rd rs rt => rType 0x00#6 rs rt rd 0#5 0x27#6
  | .andi rt rs imm => iType 0x0C#6 rs rt imm
  | .ori rt rs imm => iType 0x0D#6 rs rt imm
  | .xori rt rs imm => iType 0x0E#6 rs rt imm
  | .lui rt imm => iType 0x0F#6 0#5 rt imm
  | .slt rd rs rt => rType 0x00#6 rs rt rd 0#5 0x2A#6
  | .sltu rd rs rt => rType 0x00#6 rs rt rd 0#5 0x2B#6
  | .slti rt rs imm => iType 0x0A#6 rs rt imm
  | .sltiu rt rs imm => iType 0x0B#6 rs rt imm
  | .sll rd rt sa => rType 0x00#6 0#5 rt rd sa 0x00#6
  | .srl rd rt sa => rType 0x00#6 0#5 rt rd sa 0x02#6
  | .sra rd rt sa => rType 0x00#6 0#5 rt rd sa 0x03#6
  | .sllv rd rt rs => rType 0x00#6 rs rt rd 0#5 0x04#6
  | .srlv rd rt rs => rType 0x00#6 rs rt rd 0#5 0x06#6
  | .srav rd rt rs => rType 0x00#6 rs rt rd 0#5 0x07#6
  | .dsll rd rt sa => rType 0x00#6 0#5 rt rd sa 0x38#6
  | .dsrl rd rt sa => rType 0x00#6 0#5 rt rd sa 0x3A#6
  | .dsra rd rt sa => rType 0x00#6 0#5 rt rd sa 0x3B#6
  | .dsll32 rd rt sa => rType 0x00#6 0#5 rt rd sa 0x3C#6
  | .dsrl32 rd rt sa => rType 0x00#6 0#5 rt rd sa 0x3E#6
  | .dsra32 rd rt sa => rType 0x00#6 0#5 rt rd sa 0x3F#6
  | .dsllv rd rt rs => rType 0x00#6 rs rt rd 0#5 0x14#6
  | .dsrlv rd rt rs => rType 0x00#6 rs rt rd 0#5 0x16#6
  | .dsrav rd rt rs => rType 0x00#6 rs rt rd 0#5 0x17#6
  | .mult rd rs rt => rType 0x00#6 rs rt rd 0#5 0x18#6
  | .multu rd rs rt => rType 0x00#6 rs rt rd 0#5 0x19#6
  | .mult1 rd rs rt => rType 0x1C#6 rs rt rd 0#5 0x18#6
  | .multu1 rd rs rt => rType 0x1C#6 rs rt rd 0#5 0x19#6
  | .div rs rt => rType 0x00#6 rs rt 0#5 0#5 0x1A#6
  | .divu rs rt => rType 0x00#6 rs rt 0#5 0#5 0x1B#6
  | .div1 rs rt => rType 0x1C#6 rs rt 0#5 0#5 0x1A#6
  | .divu1 rs rt => rType 0x1C#6 rs rt 0#5 0#5 0x1B#6
  | .mfhi rd => rType 0x00#6 0#5 0#5 rd 0#5 0x10#6
  | .mflo rd => rType 0x00#6 0#5 0#5 rd 0#5 0x12#6
  | .mthi rs => rType 0x00#6 rs 0#5 0#5 0#5 0x11#6
  | .mtlo rs => rType 0x00#6 rs 0#5 0#5 0#5 0x13#6
  | .mfhi1 rd => rType 0x1C#6 0#5 0#5 rd 0#5 0x10#6
  | .mflo1 rd => rType 0x1C#6 0#5 0#5 rd 0#5 0x12#6
  | .mthi1 rs => rType 0x1C#6 rs 0#5 0#5 0#5 0x11#6
  | .mtlo1 rs => rType 0x1C#6 rs 0#5 0#5 0#5 0x13#6
  | .movz rd rs rt => rType 0x00#6 rs rt rd 0#5 0x0A#6
  | .movn rd rs rt => rType 0x00#6 rs rt rd 0#5 0x0B#6
  | .nop => 0x00000000#32
  | .syscall code => codeType code 0x0C#6
  | .breakpoint code => codeType code 0x0D#6
  | .mfc0 rt slot => rType 0x10#6 0x00#5 rt slot 0#5 0#6
  | .mtc0 rt slot => rType 0x10#6 0x04#5 rt slot 0#5 0#6
  | .eret => rType 0x10#6 0x10#5 0#5 0#5 0#5 0x18#6
  | .ei => rType 0x10#6 0x10#5 0#5 0#5 0#5 0x38#6
  | .di => rType 0x10#6 0x10#5 0#5 0#5 0#5 0x39#6
  | .sync stype => rType 0x00#6 0#5 0#5 0#5 stype 0x0F#6
  | .cache operation base offset => iType 0x2F#6 base operation offset
  | .pref hint base offset => iType 0x33#6 base hint offset
  | .tlbr => rType 0x10#6 0x10#5 0#5 0#5 0#5 0x01#6
  | .tlbwi => rType 0x10#6 0x10#5 0#5 0#5 0#5 0x02#6
  | .tlbwr => rType 0x10#6 0x10#5 0#5 0#5 0#5 0x06#6
  | .tlbp => rType 0x10#6 0x10#5 0#5 0#5 0#5 0x08#6

end Sys2Proof
end

