-- ==== Sys2Proof/Config.lean ====
section
/-! DEFINITION. What this hardware fixes (`00_scope.md` R3, the numbers of log 1) and the free values the spec
leaves open (constants without a body, so that nothing can evaluate them). -/

namespace Sys2Proof

/-- The number of bytes of one access (`20_memory.md` R58). -/
inductive Width
  | byte | half | word | double | quad
deriving DecidableEq, Repr

/-- The four byte arrays inside the Bus Router's reach (`20_memory.md` R40). -/
inductive Region
  | scratchpad | localRam | bootRom | companionRam
deriving DecidableEq, Repr

/-- The rows of `PERIPH_TABLE`, in the order of `20_memory.md` R51 (k = 0 to 10). -/
inductive Peripheral
  | intcStatus | intcMask | dmacChannels | dmacEnableRead | dmacEnableWrite | packetUnpack
  | gsPrivileged | timers | mailbox | ipuRegisters | ipuFifo
deriving DecidableEq, Repr

/-- The direction of an access, as a bus-error report names it (`20_memory.md` R54). -/
inductive Direction
  | load | store
deriving DecidableEq, Repr

/-- What the block puts on its output ports (`00_scope.md` R4): the reports of the diagnostic port and the
accesses of the peripheral ports. `State.events` records them (log 11). -/
inductive Event
  /-- `diag(DecodeFailure(pc, I))`, `30_encoding.md` R80. -/
  | decodeFailure (pc : VAddr) (word : Word)
  /-- `diag(BusError(p, n, load/store))`, `20_memory.md` R54. -/
  | busError (p : PAddr) (width : Width) (direction : Direction)
  /-- `diag(RomWrite(p, n))`, `20_memory.md` R49. -/
  | romWrite (p : PAddr) (width : Width)
  /-- One call of a collaborator's `readN` and its answer, `20_memory.md` R52. -/
  | peripheralRead (k : Peripheral) (p : PAddr) (width : Width) (answer : DWord)
  /-- One call of a collaborator's `writeN`, `20_memory.md` R52. -/
  | peripheralWrite (k : Peripheral) (p : PAddr) (width : Width) (value : DWord)
deriving DecidableEq, Repr

/-- Which pattern of `DIV0` a division asks for (`45_muldiv.md` R241). -/
inductive DivKind
  | signed | unsigned
deriving DecidableEq, Repr

namespace Config

/-! ### Numbers (R3; log 1) -/

/-- "the boot vector" (R30). -/
def resetPc : VAddr := 0xBFC00000#32
/-- "a fixed revision identifier" (R25). -/
def pridValue : Word := 0x00002E20#32
/-- Vector bases and offsets (`60_exceptions.md` R302, R303). -/
def excBaseNormal : VAddr := 0x80000000#32
def excBaseBoot : VAddr := 0xBFC00200#32
def vecCommon : VAddr := 0x180#32
def vecTlbRefill : VAddr := 0x000#32
def vecInterrupt : VAddr := 0x200#32

/-- The scratchpad window, in virtual addresses (`20_memory.md` R44). -/
def sprBase : Nat := 0x70000000
def sprSize : Nat := 0x4000
/-- The "uncached accelerated" alias window, in virtual addresses (R45). -/
def ucabLo : Nat := 0x30100000
def ucabHi : Nat := 0x31FFFFFF
def ucabOffset : VAddr := 0x30000000#32
/-- Local RAM, boot ROM and companion RAM, in physical addresses (R40). -/
def ramBase : Nat := 0x00000000
def ramSize : Nat := 0x02000000
def romBase : Nat := 0x1FC00000
def romSize : Nat := 0x00400000
def iopRamBase : Nat := 0x1C000000
def iopRamSize : Nat := 0x00200000

/-- A row of the peripheral range table: it matches the physical addresses from `lo` to `hi` (R51). -/
structure PeripheralRow where
  unit : Peripheral
  lo : Nat
  hi : Nat
deriving DecidableEq, Repr

/-- `PERIPH_TABLE` (`20_memory.md` R51), in its order. -/
def peripheralTable : List PeripheralRow :=
  [⟨.intcStatus, 0x1000F000, 0x1000F003⟩,
   ⟨.intcMask, 0x1000F010, 0x1000F013⟩,
   ⟨.dmacChannels, 0x10008000, 0x1000EFFF⟩,
   ⟨.dmacEnableRead, 0x1000F520, 0x1000F523⟩,
   ⟨.dmacEnableWrite, 0x1000F590, 0x1000F593⟩,
   ⟨.packetUnpack, 0x10003800, 0x10003FFF⟩,
   ⟨.gsPrivileged, 0x12000000, 0x12001FFF⟩,
   ⟨.timers, 0x10000000, 0x10001FFF⟩,
   ⟨.mailbox, 0x1000F200, 0x1000F26F⟩,
   ⟨.ipuRegisters, 0x10002000, 0x1000203F⟩,
   ⟨.ipuFifo, 0x10007000, 0x1000701F⟩]

/-! ### Free values

The `index` argument is `State.freeIndex`, which every use advances, and `history` is `State.events`: every
access a collaborator has seen so far. Whatever the environment does is some value of these functions. -/

/-- `DIV0` (`45_muldiv.md` R241, U4): what `LO` and `HI`, in this order, hold after a division by zero or after
`0x80000000 / 0xFFFFFFFF` signed. Some fixed function of the operands (C4); log 7. -/
opaque div0 : DivKind → Word → Word → DWord × DWord

/-- The default the spec names for `DIV0` (`45_muldiv.md` R241, the table), as `(LO, HI)`. The machine does not
use it: it runs on `div0`. It is here so that statements can say what the default is (log 7). -/
def div0Default (kind : DivKind) (n d : Word) : DWord × DWord :=
  match kind with
  | .signed =>
    if d = 0#32 then (if n.msb then 1#64 else 0xFFFFFFFFFFFFFFFF#64, n.signExtend 64)
    else (0xFFFFFFFF80000000#64, 0#64)
  | .unsigned => (0xFFFFFFFFFFFFFFFF#64, n.signExtend 64)

/-- `BADVADDR_ON_ADE` (`10_state.md` R26, `60_exceptions.md` R306): the value of `cop0[8]` after an address
error at `ea`, when it held `old`. Any value; log 8. -/
opaque badVAddr (index : Nat) (ea : VAddr) (old : Word) : Word

/-- What a collaborator answers to one read (`20_memory.md` R52): an oracle, any value; log 9. -/
opaque peripheralAnswer (index : Nat) (history : List Event) (k : Peripheral) (p : PAddr) (w : Width) : DWord

/-- Which interrupt lines (bit i for line i) the environment asserts while a collaborator is being accessed
(`00_scope.md` R5, `60_exceptions.md` R312): any subset of lines 0, 1, 2; log 10. -/
opaque peripheralLines (index : Nat) (history : List Event) : BitVec 3

/-- The value of `next_instruction` after a fetch (`10_state.md` R17: "its value is unspecified"); log 6. -/
opaque prefetchedWord (index : Nat) : Word

end Config
end Sys2Proof
end

