-- ==== Sys2Proof/Machine/State.lean ====
section
/-! DEFINITION. The state of the block (`10_state.md` R10) as plain data, its reset values (R30), and the reasons a
step can stop. -/

namespace Sys2Proof.Machine

/-- The bytes of the four byte arrays (`10_state.md` R28), as (cell address, byte) pairs in one canonical form
(`Memory.wf`): addresses strictly rising, no entry equal to 0, which is what an unlisted cell reads as (log 3). -/
abbrev Memory := List Host.Cell

structure State where
  /-- The general registers (R11). Slot 0 is hard-wired to zero by `State.reg` and `State.setReg` (R12). -/
  gpr : Vector QWord 32
  /-- The address of the instruction the next step executes (R15). -/
  pc : VAddr
  /-- The target of the pending branch (R16). -/
  branchPc : VAddr
  /-- The controller is in BranchPending (R16). -/
  isBranching : Bool
  /-- The "small integer countdown" (R16). -/
  delaySlot : Nat
  /-- The word fetched for the step in progress (R17). -/
  currentInstruction : Word
  /-- The "prefetched word", which nothing reads (R17; log 6). -/
  nextInstruction : Word
  /-- The ordinary multiply/divide pair (R18). -/
  hi : DWord
  lo : DWord
  /-- The shadow pair (R18). -/
  hi1 : DWord
  lo1 : DWord
  /-- The privileged control slots (R20): Status 12, Cause 13, EPC 14, Count 9, Compare 11, PRId 15, BadVAddr 8,
  ErrorEPC 30, the others storage only. -/
  cop0 : Vector Word 32
  /-- Scratchpad, local RAM, boot ROM and companion RAM (R28). -/
  mem : Memory
  /-- The model's own: the `reset` strobe has completed at least once (R101, R349; log 12). -/
  resetDone : Bool
  /-- The model's own: what the output ports have carried so far, newest first (R4; log 11). -/
  events : List Event
  /-- The model's own: which free value is drawn next (log 5). -/
  freeIndex : Nat
deriving DecidableEq, Repr

/-- The machine right after the `reset` strobe, with no program or image placed: the table of `10_state.md` R30.
`Status` is 0, so the core is in kernel mode with interrupts off and `BEV` clear (`70_reset_and_hazards.md` R342). -/
def State.reset : State where
  gpr := Vector.replicate 32 0#128
  pc := Config.resetPc
  branchPc := 0#32
  isBranching := false
  delaySlot := 0
  currentInstruction := 0#32
  nextInstruction := 0#32
  hi := 0#64
  lo := 0#64
  hi1 := 0#64
  lo1 := 0#64
  cop0 := (Vector.replicate 32 0#32).set 15 Config.pridValue
  mem := []
  resetDone := true
  events := []
  freeIndex := 0

/-- The machine stops with a fault: never. "Nothing in the block's behaviour is `stuck` ... and nothing is a `fault`
other than" the exceptions, which are taken (`93_implementation_defined.md` section 1; log 25). No one raises a
constructor of this type, since it has none, and that is safe: a run cannot end in a fault. -/
inductive Fault
deriving DecidableEq, Repr

/-- The machine refuses to say what happens. -/
inductive Refusal
  /-- Raised by an arm of `exec` for an instruction without a meaning yet; no arm of this model does. Safe. -/
  | notModelled (mnemonic : String)
  /-- Raised by `step` when `pc[1:0] != 0` (`40_step_driver.md` R93, U3). Safe: the run stops (log 15). -/
  | misalignedPc
  /-- Raised by a branch, jump or `ERET` executed in a delay slot whose outcome is Taken, Skip or Redirect or that
  writes a link (`40_step_driver.md` R98, U2). Safe: the run stops (log 16). -/
  | controlTransferInDelaySlot
  /-- Raised by `step`, `set_pc` and `request_interrupt` before the first `reset` (`70_reset_and_hazards.md` R349,
  U12). Safe: the run stops (log 12). -/
  | notReset
  /-- Raised by `request_interrupt(line)` with `line` outside 0..2 (`60_exceptions.md` R312, U14). Safe. -/
  | noSuchInterruptLine
deriving DecidableEq, Repr

end Sys2Proof.Machine
end

