-- ==== Sys2Proof/Machine/Flags.lean ====
section
/-! DEFINITION. The block has no condition codes (`10_state.md` R19). The status bits it has are fields of the
privileged control words `Status` (R21) and `Cause` (R22), which stay 32-bit words so that the storage-only bits
survive; here are their accessors, and the effective mode (`60_exceptions.md` R320). -/

namespace Sys2Proof.Machine

/-! ### Status (`cop0[12]`, R21) -/

def statusIE (w : Word) : Bool := w.getLsbD 0
def statusEXL (w : Word) : Bool := w.getLsbD 1
def statusERL (w : Word) : Bool := w.getLsbD 2
def statusKSU (w : Word) : BitVec 2 := w.extractLsb' 3 2
def statusEIE (w : Word) : Bool := w.getLsbD 16
def statusEDI (w : Word) : Bool := w.getLsbD 17
def statusBEV (w : Word) : Bool := w.getLsbD 22

def setStatusEXL (w : Word) : Word := w ||| 0x00000002#32
def clearStatusEXL (w : Word) : Word := w &&& ~~~0x00000002#32
def clearStatusERL (w : Word) : Word := w &&& ~~~0x00000004#32
def setStatusEIE (w : Word) : Word := w ||| 0x00010000#32
def clearStatusEIE (w : Word) : Word := w &&& ~~~0x00010000#32

/-! ### Cause (`cop0[13]`, R22) -/

def causeExcCode (w : Word) : BitVec 5 := w.extractLsb' 2 5
def causeBD (w : Word) : Bool := w.getLsbD 31

/-- `Cause.ExcCode <- code`, every other bit kept. -/
def setCauseExcCode (code : BitVec 5) (w : Word) : Word := (w &&& ~~~0x0000007C#32) ||| (code.setWidth 32 <<< 2)
/-- `Cause.BD <- bd`, every other bit kept. -/
def setCauseBD (bd : Bool) (w : Word) : Word :=
  if bd then w ||| 0x80000000#32 else w &&& ~~~0x80000000#32

/-- The `IP` and `IM` bits of interrupt lines 0, 1, 2 (`INT_LINES`, R312). -/
def lineMask (line : Nat) : Word :=
  match line with
  | 0 => 0x00000400#32
  | 1 => 0x00000800#32
  | 2 => 0x00008000#32
  | _ => 0x00000000#32

/-- The pending bits of every line whose bit is set in `lines`. -/
def linesMask (lines : BitVec 3) : Word :=
  (if lines.getLsbD 0 then lineMask 0 else 0#32) ||| (if lines.getLsbD 1 then lineMask 1 else 0#32) |||
    (if lines.getLsbD 2 then lineMask 2 else 0#32)

/-- `Cause & Status & 0x00008C00`: the pending lines that are not masked (R313). -/
def pendingLines (cause status : Word) : Word := cause &&& status &&& 0x00008C00#32

/-- The condition of interrupt admission (R313). -/
def interruptAdmitted (cause status : Word) : Bool :=
  statusIE status && statusEIE status && !statusERL status && !statusEXL status && pendingLines cause status != 0#32

/-! ### The effective mode (R320) -/

/-- `KSU` = 3 names no mode; it is "never kernel" (R320, U8). -/
inductive Mode
  | kernel | supervisor | user | unnamed
deriving DecidableEq, Repr

/-- `mode()`: a function of `Status`; the stored `KSU` bits stay what software wrote (C2; log 20). -/
def mode (status : Word) : Mode :=
  if statusEXL status || statusERL status then .kernel
  else match statusKSU status with
    | 0#2 => .kernel
    | 1#2 => .supervisor
    | 2#2 => .user
    | _ => .unnamed

/-- The condition of `EI` and `DI` (`47_system_cop0.md` R286). -/
def mayChangeEIE (status : Word) : Bool :=
  statusEDI status || statusEXL status || statusERL status || statusKSU status == 0#2

end Sys2Proof.Machine
end

