-- ==== Sys2Proof/Machine/Operands.lean ====
section
/-! DEFINITION. How operands and results are formed from bits: extension, immediates (`30_encoding.md` R73), branch
and jump targets (`41_branch_jump.md` R110, R111), shift amounts, comparison results, and the merge tables of the
left/right instructions (`43_unaligned.md` R161 to R168). -/

namespace Sys2Proof.Machine

/-! ### Extension (`00_scope.md` R6) -/

/-- `sext_64` of a word, `s32` of R6. -/
def sextWord (w : Word) : DWord := w.signExtend 64
/-- `zext_64` of a word. -/
def zextWord (w : Word) : DWord := w.setWidth 64

/-! ### Immediates (R73) -/

/-- `sext_32(imm)`: load/store offsets and the word forms of the arithmetic immediates. -/
def sextImm32 (imm : BitVec 16) : Word := imm.signExtend 32
/-- `sext_64(imm)`: the arithmetic immediate. -/
def sextImm64 (imm : BitVec 16) : DWord := imm.signExtend 64
/-- `zext_64(imm)`: the logical immediate. -/
def zextImm64 (imm : BitVec 16) : DWord := imm.setWidth 64
/-- `imm || 0x0000`: the upper immediate, before its sign-extension. -/
def upperImm (imm : BitVec 16) : Word := imm ++ 0x0000#16

/-! ### Branch and jump targets (R110), link value (R111) -/

/-- `bt = (pc + 4 + sext_32(imm) * 4) mod 2^32`, `pc` the address of the branch. -/
def branchTarget (pc : VAddr) (offset : BitVec 16) : VAddr := pc + 4#32 + (sextImm32 offset) * 4#32
/-- `jt = (pc + 4)[31:28] || index || 00`. -/
def jumpTarget (pc : VAddr) (index : BitVec 26) : VAddr := (pc + 4#32).extractLsb' 28 4 ++ index ++ 0#2
/-- `link = zext_64((pc + 8) mod 2^32)`; zero-extension is `LINK_EXT` (log 23). -/
def linkValue (pc : VAddr) : DWord := zextWord (pc + 8#32)

/-! ### Comparison and shift results (`44_alu.md`) -/

/-- The 0 or 1 of the set-on-less-than instructions (R201 to R204). -/
def boolValue (b : Bool) : DWord := if b then 1#64 else 0#64
/-- `signed_64(a) < signed_64(b)`. -/
def lessSigned (a b : DWord) : Bool := decide (a.toInt < b.toInt)
/-- `a < b`, unsigned. -/
def lessUnsigned (a b : DWord) : Bool := decide (a.toNat < b.toNat)
/-- `<<` at 32 bits (R205, R208). -/
def shiftLeftWord (w : Word) (s : Nat) : Word := w <<< s
/-- `>>l` at 32 bits (R206, R209). -/
def shiftRightWord (w : Word) (s : Nat) : Word := w >>> s
/-- `>>a` at 32 bits (R207, R210). -/
def shiftArithWord (w : Word) (s : Nat) : Word := w.sshiftRight s
/-- `<<` at 64 bits (R211, R214, R217). -/
def shiftLeftDouble (v : DWord) (s : Nat) : DWord := v <<< s
/-- `>>l` at 64 bits (R212, R215, R218). -/
def shiftRightDouble (v : DWord) (s : Nat) : DWord := v >>> s
/-- `>>a` at 64 bits (R213, R216, R219). -/
def shiftArithDouble (v : DWord) (s : Nat) : DWord := v.sshiftRight s

/-! ### Products and quotients (`45_muldiv.md`) -/

/-- The exact signed product of two words, as 64 bits (R242). -/
def productSigned (a b : Word) : DWord := BitVec.ofInt 64 (a.toInt * b.toInt)
/-- The exact unsigned product of two words, as 64 bits (R243). -/
def productUnsigned (a b : Word) : DWord := BitVec.ofNat 64 (a.toNat * b.toNat)
/-- `s32(p[31:0])`. -/
def productLow (p : DWord) : DWord := sextWord (p.setWidth 32)
/-- `s32(p[63:32])`. -/
def productHigh (p : DWord) : DWord := sextWord (p.extractLsb' 32 32)

/-- `(LO, HI)` of a signed division (R244): the quotient truncated toward zero and its remainder, but for the two
corners, where `div0` answers (R241). -/
def quotientSigned (div0 : DivKind → Word → Word → DWord × DWord) (n d : Word) : DWord × DWord :=
  if d = 0#32 ∨ (n = 0x80000000#32 ∧ d = 0xFFFFFFFF#32) then div0 .signed n d
  else (sextWord (BitVec.ofInt 32 (n.toInt.tdiv d.toInt)), sextWord (BitVec.ofInt 32 (n.toInt.tmod d.toInt)))

/-- `(LO, HI)` of an unsigned division (R245), with `div0` for the divisor 0 (R241). -/
def quotientUnsigned (div0 : DivKind → Word → Word → DWord × DWord) (n d : Word) : DWord × DWord :=
  if d = 0#32 then div0 .unsigned n d
  else (sextWord (BitVec.ofNat 32 (n.toNat / d.toNat)), sextWord (BitVec.ofNat 32 (n.toNat % d.toNat)))

/-! ### Widths of an access (`20_memory.md` R58) and natural alignment (R56) -/

/-- The number of bytes. -/
def widthBytes : Width → Nat
  | .byte => 1
  | .half => 2
  | .word => 4
  | .double => 8
  | .quad => 16

/-- `ea` is a multiple of the width: the condition of R56 fails nowhere. -/
def aligned (w : Width) (ea : VAddr) : Bool :=
  match w with
  | .byte => true
  | .half => ea.extractLsb' 0 1 == 0#1
  | .word => ea.extractLsb' 0 2 == 0#2
  | .double => ea.extractLsb' 0 3 == 0#3
  | .quad => ea.extractLsb' 0 4 == 0#4

/-- The low `8n` bits of a bus value. -/
def lowBytes (w : Width) (v : QWord) : QWord :=
  match w with
  | .byte => (v.setWidth 8).setWidth 128
  | .half => (v.setWidth 16).setWidth 128
  | .word => (v.setWidth 32).setWidth 128
  | .double => (v.setWidth 64).setWidth 128
  | .quad => v

/-! ### The merge tables of the left/right instructions (`43_unaligned.md`) -/

/-- `k = ea[1:0]` (R160). -/
def wordOffset (ea : VAddr) : BitVec 2 := ea.extractLsb' 0 2
/-- `k = ea[2:0]` (R160). -/
def doubleOffset (ea : VAddr) : BitVec 3 := ea.extractLsb' 0 3
/-- `a = ea - k`: the enclosing aligned word (R160). -/
def wordBase (ea : VAddr) : VAddr := ea - (wordOffset ea).setWidth 32
/-- `a = ea - k`: the enclosing aligned doubleword (R160). -/
def doubleBase (ea : VAddr) : VAddr := ea - (doubleOffset ea).setWidth 32

/-- `LWL_MASK` and `LWL_SHIFT` (R161). -/
def lwlTable (k : BitVec 2) : Word × Nat :=
  match k with
  | 0#2 => (0x00FFFFFF#32, 24)
  | 1#2 => (0x0000FFFF#32, 16)
  | 2#2 => (0x000000FF#32, 8)
  | _ => (0x00000000#32, 0)

/-- `LWR_MASK` and `LWR_SHIFT` (R162). -/
def lwrTable (k : BitVec 2) : Word × Nat :=
  match k with
  | 0#2 => (0x00000000#32, 0)
  | 1#2 => (0xFF000000#32, 8)
  | 2#2 => (0xFFFF0000#32, 16)
  | _ => (0xFFFFFF00#32, 24)

/-- `SWL_MASK` and `SWL_SHIFT` (R165). -/
def swlTable (k : BitVec 2) : Word × Nat :=
  match k with
  | 0#2 => (0xFFFFFF00#32, 24)
  | 1#2 => (0xFFFF0000#32, 16)
  | 2#2 => (0xFF000000#32, 8)
  | _ => (0x00000000#32, 0)

/-- `SWR_MASK` and `SWR_SHIFT` (R166). -/
def swrTable (k : BitVec 2) : Word × Nat :=
  match k with
  | 0#2 => (0x00000000#32, 0)
  | 1#2 => (0x000000FF#32, 8)
  | 2#2 => (0x0000FFFF#32, 16)
  | _ => (0x00FFFFFF#32, 24)

/-- `LDL_MASK` and `LDL_SHIFT` (R163). -/
def ldlTable (k : BitVec 3) : DWord × Nat :=
  match k with
  | 0#3 => (0x00FFFFFFFFFFFFFF#64, 56)
  | 1#3 => (0x0000FFFFFFFFFFFF#64, 48)
  | 2#3 => (0x000000FFFFFFFFFF#64, 40)
  | 3#3 => (0x00000000FFFFFFFF#64, 32)
  | 4#3 => (0x0000000000FFFFFF#64, 24)
  | 5#3 => (0x000000000000FFFF#64, 16)
  | 6#3 => (0x00000000000000FF#64, 8)
  | _ => (0x0000000000000000#64, 0)

/-- `LDR_MASK` and `LDR_SHIFT` (R164). -/
def ldrTable (k : BitVec 3) : DWord × Nat :=
  match k with
  | 0#3 => (0x0000000000000000#64, 0)
  | 1#3 => (0xFF00000000000000#64, 8)
  | 2#3 => (0xFFFF000000000000#64, 16)
  | 3#3 => (0xFFFFFF0000000000#64, 24)
  | 4#3 => (0xFFFFFFFF00000000#64, 32)
  | 5#3 => (0xFFFFFFFFFF000000#64, 40)
  | 6#3 => (0xFFFFFFFFFFFF0000#64, 48)
  | _ => (0xFFFFFFFFFFFFFF00#64, 56)

/-- `SDL_MASK` and `SDL_SHIFT` (R167). -/
def sdlTable (k : BitVec 3) : DWord × Nat :=
  match k with
  | 0#3 => (0xFFFFFFFFFFFFFF00#64, 56)
  | 1#3 => (0xFFFFFFFFFFFF0000#64, 48)
  | 2#3 => (0xFFFFFFFFFF000000#64, 40)
  | 3#3 => (0xFFFFFFFF00000000#64, 32)
  | 4#3 => (0xFFFFFF0000000000#64, 24)
  | 5#3 => (0xFFFF000000000000#64, 16)
  | 6#3 => (0xFF00000000000000#64, 8)
  | _ => (0x0000000000000000#64, 0)

/-- `SDR_MASK` and `SDR_SHIFT` (R168). -/
def sdrTable (k : BitVec 3) : DWord × Nat :=
  match k with
  | 0#3 => (0x0000000000000000#64, 0)
  | 1#3 => (0x00000000000000FF#64, 8)
  | 2#3 => (0x000000000000FFFF#64, 16)
  | 3#3 => (0x0000000000FFFFFF#64, 24)
  | 4#3 => (0x00000000FFFFFFFF#64, 32)
  | 5#3 => (0x000000FFFFFFFFFF#64, 40)
  | 6#3 => (0x0000FFFFFFFFFFFF#64, 48)
  | _ => (0x00FFFFFFFFFFFFFF#64, 56)

/-- `(old & mask) | (m << shift)` at 32 bits: the shape of R161 and R166. -/
def mergeLeftWord (table : Word × Nat) (old m : Word) : Word := (old &&& table.1) ||| (m <<< table.2)
/-- `(old & mask) | (m >>l shift)` at 32 bits: the shape of R162 and R165. -/
def mergeRightWord (table : Word × Nat) (old m : Word) : Word := (old &&& table.1) ||| (m >>> table.2)
/-- `(old & mask) | (m << shift)` at 64 bits: the shape of R163 and R168. -/
def mergeLeftDouble (table : DWord × Nat) (old m : DWord) : DWord := (old &&& table.1) ||| (m <<< table.2)
/-- `(old & mask) | (m >>l shift)` at 64 bits: the shape of R164 and R167. -/
def mergeRightDouble (table : DWord × Nat) (old m : DWord) : DWord := (old &&& table.1) ||| (m >>> table.2)

end Sys2Proof.Machine
end

