-- ==== Sys2Proof/Machine/Memory.lean ====
section
/-! DEFINITION. The byte arrays as one list of cells, and the routing of an address to them
(`20_memory.md` R40 to R51, R55). -/

namespace Sys2Proof.Machine

/-! ### The list of cells -/

/-- The canonical form: addresses strictly rising, no entry equal to what an unlisted cell reads as. -/
abbrev Memory.wf (m : Memory) : Prop :=
  m.Pairwise (fun c d => c.1 < d.1) ∧ ∀ c ∈ m, c.2 ≠ 0#8

/-- What an unlisted cell reads as: 0, the spec's default for RAM, scratchpad and companion RAM (R30, D29) and the
content of a boot ROM without an image (log 3, log 4). -/
def unlistedByte : Byte := 0#8

/-- One byte. -/
def Memory.read : Memory → Nat → Byte
  | [], _ => unlistedByte
  | c :: m, a => if c.1 = a then c.2 else Memory.read m a

/-- One byte stored, keeping the canonical form: 0 removes the entry. -/
def Memory.write : Memory → Nat → Byte → Memory
  | [], a, b => if b = unlistedByte then [] else [(a, b)]
  | c :: m, a, b =>
    if a < c.1 then (if b = unlistedByte then c :: m else (a, b) :: c :: m)
    else if a = c.1 then (if b = unlistedByte then m else (a, b) :: m)
    else c :: Memory.write m a b

/-- `n` bytes from cell `a` up, assembled little-endian (R41, R55): the byte at `a` in bits 7:0. -/
def Memory.readLE (m : Memory) (a : Nat) : Nat → QWord
  | 0 => 0#128
  | n + 1 => (Memory.readLE m (a + 1) n <<< 8) ||| (m.read a).setWidth 128

/-- The low `n` bytes of `v` into the cells from `a` up, little-endian (R42, R55). -/
def Memory.writeLE (m : Memory) (a : Nat) (v : QWord) : Nat → Memory
  | 0 => m
  | n + 1 => Memory.writeLE (m.write a (v.setWidth 8)) (a + 1) (v >>> 8) n

/-! ### Cells of the four arrays -/

/-- The cell of offset 0 of an array: its physical base, and for the scratchpad, which has no physical address, its
virtual base (log 3). -/
def regionBase : Region → Nat
  | .scratchpad => Config.sprBase
  | .localRam => Config.ramBase
  | .bootRom => Config.romBase
  | .companionRam => Config.iopRamBase

/-- The number of bytes of an array (R40). -/
def regionSize : Region → Nat
  | .scratchpad => Config.sprSize
  | .localRam => Config.ramSize
  | .bootRom => Config.romSize
  | .companionRam => Config.iopRamSize

/-- The cell of an offset of an array. -/
def cellOf (r : Region) (offset : Nat) : Nat := regionBase r + offset

/-- The cell belongs to some array. -/
def cellExists (a : Nat) : Prop := ∃ r : Region, regionBase r ≤ a ∧ a < regionBase r + regionSize r

/-! ### Routing (R43) -/

/-- Where an access goes (R43). -/
inductive Target
  | array (r : Region) (offset : Nat)
  | peripheral (k : Peripheral) (p : PAddr)
  | busError (p : PAddr)
deriving DecidableEq, Repr

/-- Step 2, the alias window (R45), and step 3, the mask to 29 bits (R47). -/
def physicalAddress (va : VAddr) : PAddr :=
  let a := if Config.ucabLo ≤ va.toNat ∧ va.toNat ≤ Config.ucabHi then va - Config.ucabOffset else va
  a.extractLsb' 0 29

/-- The row of `PERIPH_TABLE` that matches the start address of an access, the first one (R51). -/
def peripheralAt (p : PAddr) : Option Peripheral :=
  (Config.peripheralTable.find? (fun row => decide (row.lo ≤ p.toNat) && decide (p.toNat ≤ row.hi))).map
    Config.PeripheralRow.unit

/-- Step 4, the first match in the priority order of R48. -/
def routePhysical (p : PAddr) : Target :=
  if Config.ramBase ≤ p.toNat ∧ p.toNat < Config.ramBase + Config.ramSize then
    .array .localRam (p.toNat - Config.ramBase)
  else if Config.romBase ≤ p.toNat ∧ p.toNat < Config.romBase + Config.romSize then
    .array .bootRom (p.toNat - Config.romBase)
  else if Config.iopRamBase ≤ p.toNat ∧ p.toNat < Config.iopRamBase + Config.iopRamSize then
    .array .companionRam (p.toNat - Config.iopRamBase)
  else match peripheralAt p with
    | some k => .peripheral k p
    | none => .busError p

/-- `Route(vaddr)` (R43): the scratchpad window first, on the unmasked address (R44). -/
def route (va : VAddr) : Target :=
  if Config.sprBase ≤ va.toNat ∧ va.toNat ≤ Config.sprBase + Config.sprSize - 1 then
    .array .scratchpad (va.toNat - Config.sprBase)
  else routePhysical (physicalAddress va)

end Sys2Proof.Machine
end

