-- ==== Sys2Proof/Machine/Ops.lean ====
section
/-! DEFINITION. The named operations every meaning is written in: registers and control slots, the Bus Router's two
primitives, the control outcomes with the choice of the next `pc`, taking an exception and returning from one. -/

namespace Sys2Proof.Machine

/-! ### General registers (`10_state.md` R11 to R13) -/

/-- `x[r]`, all 128 bits; `x[0]` reads as zero (R12). -/
def State.reg (s : State) (r : Reg) : QWord := if r = 0#5 then 0#128 else s.gpr[r.toNat]'r.isLt
/-- `x[r][63:0]`. -/
def State.low (s : State) (r : Reg) : DWord := (s.reg r).setWidth 64
/-- `x[r][31:0]`. -/
def State.word (s : State) (r : Reg) : Word := (s.reg r).setWidth 32
/-- `x[r][127:64]`. -/
def State.high (s : State) (r : Reg) : DWord := (s.reg r).extractLsb' 64 64

/-- `x[r] <- v`, all 128 bits; a write to `x[0]` is discarded (R12). -/
def State.setReg (s : State) (r : Reg) (v : QWord) : State :=
  if r = 0#5 then s else { s with gpr := s.gpr.set r.toNat v r.isLt }
/-- `x[r][63:0] <- v`, `x[r][127:64]` unchanged (R13). -/
def State.setLow (s : State) (r : Reg) (v : DWord) : State := s.setReg r (s.high r ++ v)
/-- `x[r][63:0] <- sext_64(w)`: the 32-bit write (R13). -/
def State.setWord (s : State) (r : Reg) (w : Word) : State := s.setLow r (sextWord w)

/-! ### Privileged control slots (R20 to R26) -/

def slotBadVAddr : Reg := 8#5
def slotCount : Reg := 9#5
def slotCompare : Reg := 11#5
def slotStatus : Reg := 12#5
def slotCause : Reg := 13#5
def slotEPC : Reg := 14#5
def slotPRId : Reg := 15#5
def slotErrorEPC : Reg := 30#5

/-- `cop0[n]`: plain storage, every slot readable (R20). -/
def State.slot (s : State) (n : Reg) : Word := s.cop0[n.toNat]'n.isLt
/-- `cop0[n] <- w`: plain storage, every slot and every bit writable (R20). -/
def State.setSlot (s : State) (n : Reg) (w : Word) : State := { s with cop0 := s.cop0.set n.toNat w n.isLt }

def State.status (s : State) : Word := s.slot slotStatus
def State.cause (s : State) : Word := s.slot slotCause
def State.epc (s : State) : Word := s.slot slotEPC
def State.count (s : State) : Word := s.slot slotCount
def State.setStatus (s : State) (w : Word) : State := s.setSlot slotStatus w
def State.setCause (s : State) (w : Word) : State := s.setSlot slotCause w
def State.setEPC (s : State) (w : Word) : State := s.setSlot slotEPC w

/-! ### Output ports (`00_scope.md` R4) -/

/-- One more event on the output ports. -/
def State.emit (s : State) (e : Event) : State := { s with events := e :: s.events }

/-- Lines asserted at once: their `Cause.IP` bits are set, nothing else changes (`60_exceptions.md` R312). -/
def State.assertLines (s : State) (mask : Word) : State := s.setCause (s.cause ||| mask)

/-! ### Peripheral accesses (`20_memory.md` R52; log 9, log 10) -/

/-- One `readN` of collaborator `k` at `p`, N at most 64: an answer, which is an oracle's, the record of the call,
and whatever interrupt lines the environment asserts while the collaborator is accessed. -/
def State.peripheralRead (s : State) (k : Peripheral) (p : PAddr) (w : Width) : DWord × State :=
  let answer := (lowBytes w ((Config.peripheralAnswer s.freeIndex s.events k p w).setWidth 128)).setWidth 64
  let s1 := s.emit (.peripheralRead k p w answer)
  (answer, { s1.assertLines (linesMask (Config.peripheralLines s1.freeIndex s1.events)) with freeIndex := s.freeIndex + 1 })

/-- One `writeN` of collaborator `k` at `p`, N at most 64: the record of the call and the lines asserted. -/
def State.peripheralWrite (s : State) (k : Peripheral) (p : PAddr) (w : Width) (v : QWord) : State :=
  let s1 := s.emit (.peripheralWrite k p w ((lowBytes w v).setWidth 64))
  { s1.assertLines (linesMask (Config.peripheralLines s1.freeIndex s1.events)) with freeIndex := s.freeIndex + 1 }

/-! ### The Bus Router's primitives (R41, R42) -/

/-- `MemRead(vaddr, n)` (R41): the value in the low `8n` bits. 16 bytes of a peripheral are two 64-bit reads, `p`
first (R53; log 21); no target reads 0 and is reported (R54; log 14). -/
def State.memRead (s : State) (w : Width) (va : VAddr) : QWord × State :=
  match route va with
  | .array r offset => (s.mem.readLE (cellOf r offset) (widthBytes w), s)
  | .peripheral k p =>
    match w with
    | .quad =>
      let first := s.peripheralRead k p .double
      let second := first.2.peripheralRead k (p + 8#29) .double
      (second.1 ++ first.1, second.2)
    | _ =>
      let only := s.peripheralRead k p w
      (only.1.setWidth 128, only.2)
  | .busError p => (0#128, s.emit (.busError p w .load))

/-- `MemWrite(vaddr, n, v)` (R42): a store to boot ROM is dropped and reported (R49; log 14), a store to no target too (R54),
16 bytes to a peripheral are two 64-bit writes, `p` first (R53). -/
def State.memWrite (s : State) (w : Width) (va : VAddr) (v : QWord) : State :=
  match route va with
  | .array .bootRom offset => s.emit (.romWrite (BitVec.ofNat 29 (cellOf .bootRom offset)) w)
  | .array r offset => { s with mem := s.mem.writeLE (cellOf r offset) v (widthBytes w) }
  | .peripheral k p =>
    match w with
    | .quad => (s.peripheralWrite k p .double v).peripheralWrite k (p + 8#29) .double (v >>> 64)
    | _ => s.peripheralWrite k p w v
  | .busError p => s.emit (.busError p w .store)

/-! ### Exceptions (`60_exceptions.md`) -/

/-- The exception codes of R301. `tlbL` and `tlbS` stand for the translation misses that R300 and R302 give a vector
of their own; nothing in this block raises them (R305; log 22). -/
inductive ExcCode
  | int | adEL | adES | sys | bp | tlbL | tlbS
deriving DecidableEq, Repr

/-- The number written to `Cause.ExcCode` (R301). -/
def excNumber : ExcCode → BitVec 5
  | .int => 0#5
  | .tlbL => 2#5
  | .tlbS => 3#5
  | .adEL => 4#5
  | .adES => 5#5
  | .sys => 8#5
  | .bp => 9#5

/-- The vector offset with `Status.EXL` clear (R302). -/
def vectorOffset : ExcCode → VAddr
  | .int => Config.vecInterrupt
  | .tlbL => Config.vecTlbRefill
  | .tlbS => Config.vecTlbRefill
  | _ => Config.vecCommon

/-- The vector base (R303). -/
def vectorBase (status : Word) : VAddr := if statusBEV status then Config.excBaseBoot else Config.excBaseNormal

/-- `Raise(code, slot)` (R300): the new `pc` and the state with the control slots written. `BadVAddr` is not among
them (R306). -/
def State.raise (s : State) (code : ExcCode) (slot : Bool) : VAddr × State :=
  let s1 := s.setCause (setCauseExcCode (excNumber code) s.cause)
  if statusEXL s.status then
    (vectorBase s.status + Config.vecCommon, s1)
  else
    let s2 := s1.setEPC (if slot then s.pc - 4#32 else s.pc)
    let s3 := s2.setCause (setCauseBD slot s2.cause)
    let s4 := s3.setStatus (setStatusEXL s3.status)
    (vectorBase s.status + vectorOffset code, s4)

/-- Taking an exception (R300 with `40_step_driver.md` R92 steps 5 and 8, R99): `Raise` with the delay-slot state of
the moment, `pc` at the entry point, the pending branch dropped. -/
def State.takeException (s : State) (code : ExcCode) : State :=
  let raised := s.raise code s.isBranching
  { raised.2 with pc := raised.1, isBranching := false, delaySlot := 0 }

/-- The state part of the return from an exception (`47_system_cop0.md` R285): the level bit cleared. -/
def State.leaveLevel (s : State) : State :=
  if statusERL s.status then s.setStatus (clearStatusERL s.status) else s.setStatus (clearStatusEXL s.status)

/-- Where the return from an exception goes (R285). -/
def State.returnTarget (s : State) : VAddr :=
  if statusERL s.status then s.slot slotErrorEPC else s.slot slotEPC

/-! ### Control outcomes (`00_scope.md` R6) and the choice of the next `pc` (`40_step_driver.md` R92 step 5) -/

/-- The outcome an instruction rule ends in. -/
inductive Control
  | next
  | taken (target : VAddr)
  | skip
  | redirect (target : VAddr)
  | exception (code : ExcCode)
deriving DecidableEq, Repr

/-- Outcome Next: `pc + 4`, or the pending branch completes (R92, R95). -/
def State.advance (s : State) : State :=
  if s.isBranching then { s with pc := s.branchPc, isBranching := false, delaySlot := 0 }
  else { s with pc := s.pc + 4#32 }

/-- A control transfer has a meaning only outside a delay slot (R98; log 16). -/
def outsideDelaySlot (s : State) (answer : Host.Outcome State Fault Refusal) : Host.Outcome State Fault Refusal :=
  if s.isBranching then .refused .controlTransferInDelaySlot else answer

/-- R92 step 5: the register and memory effects are in `s`, whose `pc` and branch state are those of the step's
start. -/
def State.finish (s : State) : Control → Host.Outcome State Fault Refusal
  | .next => .next s.advance
  | .taken target =>
    outsideDelaySlot s (.next { s with branchPc := target, isBranching := true, delaySlot := 1, pc := s.pc + 4#32 })
  | .skip => outsideDelaySlot s (.next { s with pc := s.pc + 8#32 })
  | .redirect target => outsideDelaySlot s (.next { s with pc := target, isBranching := false, delaySlot := 0 })
  | .exception code => .next (s.takeException code)

/-! ### Addresses and the address error (`42_load_store.md` R140) -/

/-- `ea = (x[base][31:0] + sext_32(offset)) mod 2^32`. -/
def State.effectiveAddress (s : State) (base : Reg) (offset : BitVec 16) : VAddr := s.word base + sextImm32 offset

/-- The address-error exception (R140, R56): taken before any access, `BadVAddr` left open (R306; log 8). -/
def State.addressError (s : State) (code : ExcCode) (ea : VAddr) : Host.Outcome State Fault Refusal :=
  let recorded := s.setSlot slotBadVAddr (Config.badVAddr s.freeIndex ea (s.slot slotBadVAddr))
  { recorded with freeIndex := s.freeIndex + 1 }.finish (.exception code)

/-- The order of R140 for an aligned load: check, read, register write. -/
def State.alignedLoad (s : State) (w : Width) (base : Reg) (offset : BitVec 16) (write : State → QWord → State) :
    Host.Outcome State Fault Refusal :=
  let ea := s.effectiveAddress base offset
  if aligned w ea then (write (s.memRead w ea).2 (s.memRead w ea).1).finish .next else s.addressError .adEL ea

/-- The order of R140 for an aligned store: check, write. -/
def State.alignedStore (s : State) (w : Width) (base : Reg) (offset : BitVec 16) (v : QWord) :
    Host.Outcome State Fault Refusal :=
  let ea := s.effectiveAddress base offset
  if aligned w ea then (s.memWrite w ea v).finish .next else s.addressError .adES ea

end Sys2Proof.Machine
end

