-- ==== Sys2Proof/Machine/Alu.lean ====
section
/-! DEFINITION. Arithmetic, logical, compare, shift and immediate-load instructions (`44_alu.md`): no exception, no memory,
outcome Next (R180). The signed forms wrap like their unsigned twins (D42). -/

namespace Sys2Proof.Machine

/-- `ADD` (R181). -/
def execAdd (rd rs rt : Reg) (s : State) : Host.Outcome State Fault Refusal :=
  (s.setWord rd (s.word rs + s.word rt)).finish .next

/-- `ADDU` (R182). -/
def execAddu (rd rs rt : Reg) (s : State) : Host.Outcome State Fault Refusal :=
  (s.setWord rd (s.word rs + s.word rt)).finish .next

/-- `SUB` (R183). -/
def execSub (rd rs rt : Reg) (s : State) : Host.Outcome State Fault Refusal :=
  (s.setWord rd (s.word rs - s.word rt)).finish .next

/-- `SUBU` (R184). -/
def execSubu (rd rs rt : Reg) (s : State) : Host.Outcome State Fault Refusal :=
  (s.setWord rd (s.word rs - s.word rt)).finish .next

/-- `ADDI` (R185). -/
def execAddi (rt rs : Reg) (imm : BitVec 16) (s : State) : Host.Outcome State Fault Refusal :=
  (s.setWord rt (s.word rs + sextImm32 imm)).finish .next

/-- `ADDIU` (R186). -/
def execAddiu (rt rs : Reg) (imm : BitVec 16) (s : State) : Host.Outcome State Fault Refusal :=
  (s.setWord rt (s.word rs + sextImm32 imm)).finish .next

/-- `DADD` (R187). -/
def execDadd (rd rs rt : Reg) (s : State) : Host.Outcome State Fault Refusal :=
  (s.setLow rd (s.low rs + s.low rt)).finish .next

/-- `DADDU` (R188). -/
def execDaddu (rd rs rt : Reg) (s : State) : Host.Outcome State Fault Refusal :=
  (s.setLow rd (s.low rs + s.low rt)).finish .next

/-- `DSUB` (R189). -/
def execDsub (rd rs rt : Reg) (s : State) : Host.Outcome State Fault Refusal :=
  (s.setLow rd (s.low rs - s.low rt)).finish .next

/-- `DSUBU` (R190). -/
def execDsubu (rd rs rt : Reg) (s : State) : Host.Outcome State Fault Refusal :=
  (s.setLow rd (s.low rs - s.low rt)).finish .next

/-- `DADDI` (R191). -/
def execDaddi (rt rs : Reg) (imm : BitVec 16) (s : State) : Host.Outcome State Fault Refusal :=
  (s.setLow rt (s.low rs + sextImm64 imm)).finish .next

/-- `DADDIU` (R192). -/
def execDaddiu (rt rs : Reg) (imm : BitVec 16) (s : State) : Host.Outcome State Fault Refusal :=
  (s.setLow rt (s.low rs + sextImm64 imm)).finish .next

/-- `AND` (R193). -/
def execAnd (rd rs rt : Reg) (s : State) : Host.Outcome State Fault Refusal :=
  (s.setLow rd (s.low rs &&& s.low rt)).finish .next

/-- `OR` (R194). -/
def execOr (rd rs rt : Reg) (s : State) : Host.Outcome State Fault Refusal :=
  (s.setLow rd (s.low rs ||| s.low rt)).finish .next

/-- `XOR` (R195). -/
def execXor (rd rs rt : Reg) (s : State) : Host.Outcome State Fault Refusal :=
  (s.setLow rd (s.low rs ^^^ s.low rt)).finish .next

/-- `NOR` (R196). -/
def execNor (rd rs rt : Reg) (s : State) : Host.Outcome State Fault Refusal :=
  (s.setLow rd (~~~(s.low rs ||| s.low rt))).finish .next

/-- `ANDI` (R197). -/
def execAndi (rt rs : Reg) (imm : BitVec 16) (s : State) : Host.Outcome State Fault Refusal :=
  (s.setLow rt (s.low rs &&& zextImm64 imm)).finish .next

/-- `ORI` (R198). -/
def execOri (rt rs : Reg) (imm : BitVec 16) (s : State) : Host.Outcome State Fault Refusal :=
  (s.setLow rt (s.low rs ||| zextImm64 imm)).finish .next

/-- `XORI` (R199). -/
def execXori (rt rs : Reg) (imm : BitVec 16) (s : State) : Host.Outcome State Fault Refusal :=
  (s.setLow rt (s.low rs ^^^ zextImm64 imm)).finish .next

/-- `LUI` (R200). -/
def execLui (rt : Reg) (imm : BitVec 16) (s : State) : Host.Outcome State Fault Refusal :=
  (s.setWord rt (upperImm imm)).finish .next

/-- `SLT` (R201). -/
def execSlt (rd rs rt : Reg) (s : State) : Host.Outcome State Fault Refusal :=
  (s.setLow rd (boolValue (lessSigned (s.low rs) (s.low rt)))).finish .next

/-- `SLTU` (R202). -/
def execSltu (rd rs rt : Reg) (s : State) : Host.Outcome State Fault Refusal :=
  (s.setLow rd (boolValue (lessUnsigned (s.low rs) (s.low rt)))).finish .next

/-- `SLTI` (R203). -/
def execSlti (rt rs : Reg) (imm : BitVec 16) (s : State) : Host.Outcome State Fault Refusal :=
  (s.setLow rt (boolValue (lessSigned (s.low rs) (sextImm64 imm)))).finish .next

/-- `SLTIU` (R204). -/
def execSltiu (rt rs : Reg) (imm : BitVec 16) (s : State) : Host.Outcome State Fault Refusal :=
  (s.setLow rt (boolValue (lessUnsigned (s.low rs) (sextImm64 imm)))).finish .next

/-- `SLL` (R205). -/
def execSll (rd rt : Reg) (sa : BitVec 5) (s : State) : Host.Outcome State Fault Refusal :=
  (s.setWord rd (shiftLeftWord (s.word rt) sa.toNat)).finish .next

/-- `SRL` (R206). -/
def execSrl (rd rt : Reg) (sa : BitVec 5) (s : State) : Host.Outcome State Fault Refusal :=
  (s.setWord rd (shiftRightWord (s.word rt) sa.toNat)).finish .next

/-- `SRA` (R207). -/
def execSra (rd rt : Reg) (sa : BitVec 5) (s : State) : Host.Outcome State Fault Refusal :=
  (s.setWord rd (shiftArithWord (s.word rt) sa.toNat)).finish .next

/-- `SLLV` (R208). -/
def execSllv (rd rt rs : Reg) (s : State) : Host.Outcome State Fault Refusal :=
  (s.setWord rd (shiftLeftWord (s.word rt) ((s.word rs).extractLsb' 0 5).toNat)).finish .next

/-- `SRLV` (R209). -/
def execSrlv (rd rt rs : Reg) (s : State) : Host.Outcome State Fault Refusal :=
  (s.setWord rd (shiftRightWord (s.word rt) ((s.word rs).extractLsb' 0 5).toNat)).finish .next

/-- `SRAV` (R210). -/
def execSrav (rd rt rs : Reg) (s : State) : Host.Outcome State Fault Refusal :=
  (s.setWord rd (shiftArithWord (s.word rt) ((s.word rs).extractLsb' 0 5).toNat)).finish .next

/-- `DSLL` (R211). -/
def execDsll (rd rt : Reg) (sa : BitVec 5) (s : State) : Host.Outcome State Fault Refusal :=
  (s.setLow rd (shiftLeftDouble (s.low rt) sa.toNat)).finish .next

/-- `DSRL` (R212). -/
def execDsrl (rd rt : Reg) (sa : BitVec 5) (s : State) : Host.Outcome State Fault Refusal :=
  (s.setLow rd (shiftRightDouble (s.low rt) sa.toNat)).finish .next

/-- `DSRA` (R213). -/
def execDsra (rd rt : Reg) (sa : BitVec 5) (s : State) : Host.Outcome State Fault Refusal :=
  (s.setLow rd (shiftArithDouble (s.low rt) sa.toNat)).finish .next

/-- `DSLL32` (R214). -/
def execDsll32 (rd rt : Reg) (sa : BitVec 5) (s : State) : Host.Outcome State Fault Refusal :=
  (s.setLow rd (shiftLeftDouble (s.low rt) (sa.toNat + 32))).finish .next

/-- `DSRL32` (R215). -/
def execDsrl32 (rd rt : Reg) (sa : BitVec 5) (s : State) : Host.Outcome State Fault Refusal :=
  (s.setLow rd (shiftRightDouble (s.low rt) (sa.toNat + 32))).finish .next

/-- `DSRA32` (R216). -/
def execDsra32 (rd rt : Reg) (sa : BitVec 5) (s : State) : Host.Outcome State Fault Refusal :=
  (s.setLow rd (shiftArithDouble (s.low rt) (sa.toNat + 32))).finish .next

/-- `DSLLV` (R217). -/
def execDsllv (rd rt rs : Reg) (s : State) : Host.Outcome State Fault Refusal :=
  (s.setLow rd (shiftLeftDouble (s.low rt) ((s.low rs).extractLsb' 0 6).toNat)).finish .next

/-- `DSRLV` (R218). -/
def execDsrlv (rd rt rs : Reg) (s : State) : Host.Outcome State Fault Refusal :=
  (s.setLow rd (shiftRightDouble (s.low rt) ((s.low rs).extractLsb' 0 6).toNat)).finish .next

/-- `DSRAV` (R219). -/
def execDsrav (rd rt rs : Reg) (s : State) : Host.Outcome State Fault Refusal :=
  (s.setLow rd (shiftArithDouble (s.low rt) ((s.low rs).extractLsb' 0 6).toNat)).finish .next

end Sys2Proof.Machine
end

