-- ==== Sys2Proof/Machine/Branch.lean ====
section
/-! DEFINITION. Jumps and branches (`41_branch_jump.md`). In a delay slot an outcome Taken or Skip, or a link write, has no
meaning (R98, R110): `State.finish` and `outsideDelaySlot` refuse it. -/

namespace Sys2Proof.Machine

/-- The outcome of a conditional branch, taken to `bt` (R110) or else as the form says. -/
def State.branchIf (s : State) (condition : Bool) (offset : BitVec 16) (otherwise : Control) : Control :=
  if condition then .taken (branchTarget s.pc offset) else otherwise

/-- The link write of R111, "before entering BranchPending", then the outcome; none of it in a delay slot (R98). -/
def State.linkThen (s : State) (r : Reg) (out : Control) : Host.Outcome State Fault Refusal :=
  outsideDelaySlot s ((s.setLow r (linkValue s.pc)).finish out)

def isNegative (v : DWord) : Bool := decide (v.toInt < 0)
def isNotPositive (v : DWord) : Bool := decide (v.toInt ≤ 0)

/-- `J` (R112). -/
def execJ (index : BitVec 26) (s : State) : Host.Outcome State Fault Refusal :=
  s.finish (.taken (jumpTarget s.pc index))

/-- `JAL` (R113). -/
def execJal (index : BitVec 26) (s : State) : Host.Outcome State Fault Refusal :=
  s.linkThen 31#5 (.taken (jumpTarget s.pc index))

/-- `JR` (R114). -/
def execJr (rs : Reg) (s : State) : Host.Outcome State Fault Refusal :=
  s.finish (.taken (s.word rs))

/-- `JALR` (R115): the target is read before the link is written. -/
def execJalr (rd rs : Reg) (s : State) : Host.Outcome State Fault Refusal :=
  s.linkThen rd (.taken (s.word rs))

/-- `BEQ` (R116). -/
def execBeq (rs rt : Reg) (offset : BitVec 16) (s : State) : Host.Outcome State Fault Refusal :=
  s.finish (s.branchIf (s.low rs == s.low rt) offset .next)

/-- `BNE` (R117). -/
def execBne (rs rt : Reg) (offset : BitVec 16) (s : State) : Host.Outcome State Fault Refusal :=
  s.finish (s.branchIf (s.low rs != s.low rt) offset .next)

/-- `BLEZ` (R118). -/
def execBlez (rs : Reg) (offset : BitVec 16) (s : State) : Host.Outcome State Fault Refusal :=
  s.finish (s.branchIf (isNotPositive (s.low rs)) offset .next)

/-- `BGTZ` (R119). -/
def execBgtz (rs : Reg) (offset : BitVec 16) (s : State) : Host.Outcome State Fault Refusal :=
  s.finish (s.branchIf (!isNotPositive (s.low rs)) offset .next)

/-- `BLTZ` (R120). -/
def execBltz (rs : Reg) (offset : BitVec 16) (s : State) : Host.Outcome State Fault Refusal :=
  s.finish (s.branchIf (isNegative (s.low rs)) offset .next)

/-- `BGEZ` (R121). -/
def execBgez (rs : Reg) (offset : BitVec 16) (s : State) : Host.Outcome State Fault Refusal :=
  s.finish (s.branchIf (!isNegative (s.low rs)) offset .next)

/-- `BEQL` (R122). -/
def execBeql (rs rt : Reg) (offset : BitVec 16) (s : State) : Host.Outcome State Fault Refusal :=
  s.finish (s.branchIf (s.low rs == s.low rt) offset .skip)

/-- `BNEL` (R123). -/
def execBnel (rs rt : Reg) (offset : BitVec 16) (s : State) : Host.Outcome State Fault Refusal :=
  s.finish (s.branchIf (s.low rs != s.low rt) offset .skip)

/-- `BLEZL` (R124). -/
def execBlezl (rs : Reg) (offset : BitVec 16) (s : State) : Host.Outcome State Fault Refusal :=
  s.finish (s.branchIf (isNotPositive (s.low rs)) offset .skip)

/-- `BGTZL` (R125). -/
def execBgtzl (rs : Reg) (offset : BitVec 16) (s : State) : Host.Outcome State Fault Refusal :=
  s.finish (s.branchIf (!isNotPositive (s.low rs)) offset .skip)

/-- `BLTZL` (R126). -/
def execBltzl (rs : Reg) (offset : BitVec 16) (s : State) : Host.Outcome State Fault Refusal :=
  s.finish (s.branchIf (isNegative (s.low rs)) offset .skip)

/-- `BGEZL` (R127). -/
def execBgezl (rs : Reg) (offset : BitVec 16) (s : State) : Host.Outcome State Fault Refusal :=
  s.finish (s.branchIf (!isNegative (s.low rs)) offset .skip)

/-- `BLTZAL` (R128): the condition is read before the link is written, which is always. -/
def execBltzal (rs : Reg) (offset : BitVec 16) (s : State) : Host.Outcome State Fault Refusal :=
  s.linkThen 31#5 (s.branchIf (isNegative (s.low rs)) offset .next)

/-- `BLTZALL` (R130): the link is written also when not taken. -/
def execBltzall (rs : Reg) (offset : BitVec 16) (s : State) : Host.Outcome State Fault Refusal :=
  s.linkThen 31#5 (s.branchIf (isNegative (s.low rs)) offset .skip)

/-- `BGEZAL` (R129): the condition is read before the link is written, which is always. -/
def execBgezal (rs : Reg) (offset : BitVec 16) (s : State) : Host.Outcome State Fault Refusal :=
  s.linkThen 31#5 (s.branchIf (!isNegative (s.low rs)) offset .next)

/-- `BGEZALL` (R131): the link is written also when not taken. -/
def execBgezall (rs : Reg) (offset : BitVec 16) (s : State) : Host.Outcome State Fault Refusal :=
  s.linkThen 31#5 (s.branchIf (!isNegative (s.low rs)) offset .skip)

end Sys2Proof.Machine
end

