-- ==== Sys2Proof/Machine/LoadStore.lean ====
section
/-! DEFINITION. Aligned loads and stores (`42_load_store.md`). -/

namespace Sys2Proof.Machine

/-- `LB` (R141). -/
def execLb (rt base : Reg) (offset : BitVec 16) (s : State) : Host.Outcome State Fault Refusal :=
  s.alignedLoad .byte base offset (fun t v => t.setLow rt ((v.setWidth 8).signExtend 64))

/-- `LBU` (R142). -/
def execLbu (rt base : Reg) (offset : BitVec 16) (s : State) : Host.Outcome State Fault Refusal :=
  s.alignedLoad .byte base offset (fun t v => t.setLow rt ((v.setWidth 8).setWidth 64))

/-- `LH` (R143). -/
def execLh (rt base : Reg) (offset : BitVec 16) (s : State) : Host.Outcome State Fault Refusal :=
  s.alignedLoad .half base offset (fun t v => t.setLow rt ((v.setWidth 16).signExtend 64))

/-- `LHU` (R144). -/
def execLhu (rt base : Reg) (offset : BitVec 16) (s : State) : Host.Outcome State Fault Refusal :=
  s.alignedLoad .half base offset (fun t v => t.setLow rt ((v.setWidth 16).setWidth 64))

/-- `LW` (R145). -/
def execLw (rt base : Reg) (offset : BitVec 16) (s : State) : Host.Outcome State Fault Refusal :=
  s.alignedLoad .word base offset (fun t v => t.setWord rt (v.setWidth 32))

/-- `LWU` (R146). -/
def execLwu (rt base : Reg) (offset : BitVec 16) (s : State) : Host.Outcome State Fault Refusal :=
  s.alignedLoad .word base offset (fun t v => t.setLow rt (zextWord (v.setWidth 32)))

/-- `LD` (R147). -/
def execLd (rt base : Reg) (offset : BitVec 16) (s : State) : Host.Outcome State Fault Refusal :=
  s.alignedLoad .double base offset (fun t v => t.setLow rt (v.setWidth 64))

/-- `LQ` (R148). -/
def execLq (rt base : Reg) (offset : BitVec 16) (s : State) : Host.Outcome State Fault Refusal :=
  s.alignedLoad .quad base offset (fun t v => t.setReg rt v)

/-- `SB` (R149): the low bytes of `x[rt]`. -/
def execSb (rt base : Reg) (offset : BitVec 16) (s : State) : Host.Outcome State Fault Refusal :=
  s.alignedStore .byte base offset (s.reg rt)

/-- `SH` (R150): the low bytes of `x[rt]`. -/
def execSh (rt base : Reg) (offset : BitVec 16) (s : State) : Host.Outcome State Fault Refusal :=
  s.alignedStore .half base offset (s.reg rt)

/-- `SW` (R151): the low bytes of `x[rt]`. -/
def execSw (rt base : Reg) (offset : BitVec 16) (s : State) : Host.Outcome State Fault Refusal :=
  s.alignedStore .word base offset (s.reg rt)

/-- `SD` (R152): the low bytes of `x[rt]`. -/
def execSd (rt base : Reg) (offset : BitVec 16) (s : State) : Host.Outcome State Fault Refusal :=
  s.alignedStore .double base offset (s.reg rt)

/-- `SQ` (R153): the low bytes of `x[rt]`. -/
def execSq (rt base : Reg) (offset : BitVec 16) (s : State) : Host.Outcome State Fault Refusal :=
  s.alignedStore .quad base offset (s.reg rt)

end Sys2Proof.Machine
end

