-- ==== Sys2Proof/Machine/MoveCond.lean ====
section
/-! DEFINITION. Conditional moves (`46_move_cond.md`): a failed condition writes nothing (R270). -/

namespace Sys2Proof.Machine

/-- `MOVZ` (R271). -/
def execMovz (rd rs rt : Reg) (s : State) : Host.Outcome State Fault Refusal :=
  (if s.low rt = 0#64 then s.setLow rd (s.low rs) else s).finish .next

/-- `MOVN` (R272). -/
def execMovn (rd rs rt : Reg) (s : State) : Host.Outcome State Fault Refusal :=
  (if s.low rt = 0#64 then s else s.setLow rd (s.low rs)).finish .next

end Sys2Proof.Machine
end

