-- ==== Sys2Proof/Machine/MulDiv.lean ====
section
/-! DEFINITION. Multiply, divide and HI/LO moves, both units (`45_muldiv.md`): no exception, outcome Next (R240). The
ordinary instructions touch `HI`/`LO` only, the "1" instructions `HI1`/`LO1` only. -/

namespace Sys2Proof.Machine

/-- `LO <- lo`, `HI <- hi`. -/
def State.setPair (s : State) (lo hi : DWord) : State := { s with lo := lo, hi := hi }
/-- `LO1 <- lo`, `HI1 <- hi`. -/
def State.setPair1 (s : State) (lo hi : DWord) : State := { s with lo1 := lo, hi1 := hi }

/-- `MULT` (R242): the new `LO` is copied to `x[rd]` when `rd != 0`. -/
def execMult (rd rs rt : Reg) (s : State) : Host.Outcome State Fault Refusal :=
  let p := productSigned (s.word rs) (s.word rt)
  ((s.setPair (productLow p) (productHigh p)).setLow rd (productLow p)).finish .next

/-- `MULT1` (R246): the new `LO1` is copied to `x[rd]` when `rd != 0`. -/
def execMult1 (rd rs rt : Reg) (s : State) : Host.Outcome State Fault Refusal :=
  let p := productSigned (s.word rs) (s.word rt)
  ((s.setPair1 (productLow p) (productHigh p)).setLow rd (productLow p)).finish .next

/-- `MULTU` (R243): the new `LO` is copied to `x[rd]` when `rd != 0`. -/
def execMultu (rd rs rt : Reg) (s : State) : Host.Outcome State Fault Refusal :=
  let p := productUnsigned (s.word rs) (s.word rt)
  ((s.setPair (productLow p) (productHigh p)).setLow rd (productLow p)).finish .next

/-- `MULTU1` (R247): the new `LO1` is copied to `x[rd]` when `rd != 0`. -/
def execMultu1 (rd rs rt : Reg) (s : State) : Host.Outcome State Fault Refusal :=
  let p := productUnsigned (s.word rs) (s.word rt)
  ((s.setPair1 (productLow p) (productHigh p)).setLow rd (productLow p)).finish .next

/-- `DIV` (R244); the corners of R241 are free (log 7). -/
def execDiv (rs rt : Reg) (s : State) : Host.Outcome State Fault Refusal :=
  let q := quotientSigned Config.div0 (s.word rs) (s.word rt)
  (s.setPair q.1 q.2).finish .next

/-- `DIV1` (R248); the corners of R241 are free (log 7). -/
def execDiv1 (rs rt : Reg) (s : State) : Host.Outcome State Fault Refusal :=
  let q := quotientSigned Config.div0 (s.word rs) (s.word rt)
  (s.setPair1 q.1 q.2).finish .next

/-- `DIVU` (R245); the corners of R241 are free (log 7). -/
def execDivu (rs rt : Reg) (s : State) : Host.Outcome State Fault Refusal :=
  let q := quotientUnsigned Config.div0 (s.word rs) (s.word rt)
  (s.setPair q.1 q.2).finish .next

/-- `DIVU1` (R249); the corners of R241 are free (log 7). -/
def execDivu1 (rs rt : Reg) (s : State) : Host.Outcome State Fault Refusal :=
  let q := quotientUnsigned Config.div0 (s.word rs) (s.word rt)
  (s.setPair1 q.1 q.2).finish .next

/-- `MFHI` (R250). -/
def execMfhi (rd : Reg) (s : State) : Host.Outcome State Fault Refusal :=
  (s.setLow rd s.hi).finish .next

/-- `MFLO` (R251). -/
def execMflo (rd : Reg) (s : State) : Host.Outcome State Fault Refusal :=
  (s.setLow rd s.lo).finish .next

/-- `MFHI1` (R254). -/
def execMfhi1 (rd : Reg) (s : State) : Host.Outcome State Fault Refusal :=
  (s.setLow rd s.hi1).finish .next

/-- `MFLO1` (R255). -/
def execMflo1 (rd : Reg) (s : State) : Host.Outcome State Fault Refusal :=
  (s.setLow rd s.lo1).finish .next

/-- `MTHI` (R252). -/
def execMthi (rs : Reg) (s : State) : Host.Outcome State Fault Refusal :=
  { s with hi := s.low rs }.finish .next

/-- `MTLO` (R253). -/
def execMtlo (rs : Reg) (s : State) : Host.Outcome State Fault Refusal :=
  { s with lo := s.low rs }.finish .next

/-- `MTHI1` (R256). -/
def execMthi1 (rs : Reg) (s : State) : Host.Outcome State Fault Refusal :=
  { s with hi1 := s.low rs }.finish .next

/-- `MTLO1` (R257). -/
def execMtlo1 (rs : Reg) (s : State) : Host.Outcome State Fault Refusal :=
  { s with lo1 := s.low rs }.finish .next

end Sys2Proof.Machine
end

