-- ==== Sys2Proof/Machine/System.lean ====
section
/-! DEFINITION. System, privileged-move and maintenance instructions (`47_system_cop0.md`): none checks the mode or
`Status.CU` (R280). -/

namespace Sys2Proof.Machine

/-- `NOP` (R295): no effect. -/
def execNop (s : State) : Host.Outcome State Fault Refusal :=
  s.finish .next

/-- `SYSCALL` (R283): the code field is not examined. -/
def execSyscall (_code : BitVec 20) (s : State) : Host.Outcome State Fault Refusal :=
  s.finish (.exception .sys)

/-- `BREAK` (R284): the code field is not examined. -/
def execBreak (_code : BitVec 20) (s : State) : Host.Outcome State Fault Refusal :=
  s.finish (.exception .bp)

/-- `MFC0` (R281): the 32 bits last stored, sign-extended. -/
def execMfc0 (rt slot : Reg) (s : State) : Host.Outcome State Fault Refusal :=
  (s.setWord rt (s.slot slot)).finish .next

/-- `MTC0` (R282): all 32 bits are stored, in every slot. -/
def execMtc0 (rt slot : Reg) (s : State) : Host.Outcome State Fault Refusal :=
  (s.setSlot slot (s.word rt)).finish .next

/-- `ERET` (R285). -/
def execEret (s : State) : Host.Outcome State Fault Refusal :=
  s.leaveLevel.finish (.redirect s.returnTarget)

/-- `EI` (R286). -/
def execEi (s : State) : Host.Outcome State Fault Refusal :=
  (if mayChangeEIE s.status then s.setStatus (setStatusEIE s.status) else s).finish .next

/-- `DI` (R287). -/
def execDi (s : State) : Host.Outcome State Fault Refusal :=
  (if mayChangeEIE s.status then s.setStatus (clearStatusEIE s.status) else s).finish .next

/-- `SYNC` (R288): nothing to order, no effect. -/
def execSync (_stype : BitVec 5) (s : State) : Host.Outcome State Fault Refusal :=
  s.finish .next

/-- `CACHE` (R289): no address, no access, no effect. -/
def execCache (_operation _base : Reg) (_offset : BitVec 16) (s : State) : Host.Outcome State Fault Refusal :=
  s.finish .next

/-- `PREF` (R290): no address, no access, no effect. -/
def execPref (_hint _base : Reg) (_offset : BitVec 16) (s : State) : Host.Outcome State Fault Refusal :=
  s.finish .next

/-- `TLBR` (R291): there is no TLB, no effect. -/
def execTlbr (s : State) : Host.Outcome State Fault Refusal :=
  s.finish .next

/-- `TLBWI` (R292): there is no TLB, no effect. -/
def execTlbwi (s : State) : Host.Outcome State Fault Refusal :=
  s.finish .next

/-- `TLBWR` (R293): there is no TLB, no effect. -/
def execTlbwr (s : State) : Host.Outcome State Fault Refusal :=
  s.finish .next

/-- `TLBP` (R294): there is no TLB, no effect. -/
def execTlbp (s : State) : Host.Outcome State Fault Refusal :=
  s.finish .next

end Sys2Proof.Machine
end

