-- ==== Sys2Proof/Machine/Unaligned.lean ====
section
/-! DEFINITION. The left/right loads and stores (`43_unaligned.md`): one aligned read, a merge, and a register write or
one aligned write (R160). No alignment check, no exception. -/

namespace Sys2Proof.Machine

/-- A word load merged into `x[rt][31:0]` and written sign-extended (R160, D15). -/
def State.mergeLoadWord (s : State) (rt base : Reg) (offset : BitVec 16) (merge : BitVec 2 → Word → Word → Word) :
    Host.Outcome State Fault Refusal :=
  let ea := s.effectiveAddress base offset
  let m := s.memRead .word (wordBase ea)
  (m.2.setWord rt (merge (wordOffset ea) (s.word rt) (m.1.setWidth 32))).finish .next

/-- A doubleword load merged into `x[rt][63:0]` (R160). -/
def State.mergeLoadDouble (s : State) (rt base : Reg) (offset : BitVec 16) (merge : BitVec 3 → DWord → DWord → DWord) :
    Host.Outcome State Fault Refusal :=
  let ea := s.effectiveAddress base offset
  let m := s.memRead .double (doubleBase ea)
  (m.2.setLow rt (merge (doubleOffset ea) (s.low rt) (m.1.setWidth 64))).finish .next

/-- Read the aligned word, merge `x[rt][31:0]` into it, write the whole word (R160, D16). -/
def State.mergeStoreWord (s : State) (rt base : Reg) (offset : BitVec 16) (merge : BitVec 2 → Word → Word → Word) :
    Host.Outcome State Fault Refusal :=
  let ea := s.effectiveAddress base offset
  let m := s.memRead .word (wordBase ea)
  (m.2.memWrite .word (wordBase ea) ((merge (wordOffset ea) (m.1.setWidth 32) (s.word rt)).setWidth 128)).finish .next

/-- Read the aligned doubleword, merge `x[rt][63:0]` into it, write the whole doubleword (R160, D16). -/
def State.mergeStoreDouble (s : State) (rt base : Reg) (offset : BitVec 16) (merge : BitVec 3 → DWord → DWord → DWord) :
    Host.Outcome State Fault Refusal :=
  let ea := s.effectiveAddress base offset
  let m := s.memRead .double (doubleBase ea)
  (m.2.memWrite .double (doubleBase ea)
    ((merge (doubleOffset ea) (m.1.setWidth 64) (s.low rt)).setWidth 128)).finish .next

/-- `LWL` (R161). -/
def execLwl (rt base : Reg) (offset : BitVec 16) (s : State) : Host.Outcome State Fault Refusal :=
  s.mergeLoadWord rt base offset (fun k old m => mergeLeftWord (lwlTable k) old m)

/-- `LWR` (R162). Bits 63:32 for `k != 0`: log 19. -/
def execLwr (rt base : Reg) (offset : BitVec 16) (s : State) : Host.Outcome State Fault Refusal :=
  s.mergeLoadWord rt base offset (fun k old m => mergeRightWord (lwrTable k) old m)

/-- `LDL` (R163). -/
def execLdl (rt base : Reg) (offset : BitVec 16) (s : State) : Host.Outcome State Fault Refusal :=
  s.mergeLoadDouble rt base offset (fun k old m => mergeLeftDouble (ldlTable k) old m)

/-- `LDR` (R164). -/
def execLdr (rt base : Reg) (offset : BitVec 16) (s : State) : Host.Outcome State Fault Refusal :=
  s.mergeLoadDouble rt base offset (fun k old m => mergeRightDouble (ldrTable k) old m)

/-- `SWL` (R165). -/
def execSwl (rt base : Reg) (offset : BitVec 16) (s : State) : Host.Outcome State Fault Refusal :=
  s.mergeStoreWord rt base offset (fun k m v => mergeRightWord (swlTable k) m v)

/-- `SWR` (R166). -/
def execSwr (rt base : Reg) (offset : BitVec 16) (s : State) : Host.Outcome State Fault Refusal :=
  s.mergeStoreWord rt base offset (fun k m v => mergeLeftWord (swrTable k) m v)

/-- `SDL` (R167). -/
def execSdl (rt base : Reg) (offset : BitVec 16) (s : State) : Host.Outcome State Fault Refusal :=
  s.mergeStoreDouble rt base offset (fun k m v => mergeRightDouble (sdlTable k) m v)

/-- `SDR` (R168). -/
def execSdr (rt base : Reg) (offset : BitVec 16) (s : State) : Host.Outcome State Fault Refusal :=
  s.mergeStoreDouble rt base offset (fun k m v => mergeLeftDouble (sdrTable k) m v)

end Sys2Proof.Machine
end

