-- ==== Sys2Proof/Machine/Driver.lean ====
section
/-! DEFINITION. What the Step Driver adds around an instruction (`40_step_driver.md` R90 to R92): the fetch before it,
the report of a decode failure in place of it, the bookkeeping after it. -/

namespace Sys2Proof.Machine

/-- `pc[1:0] = 0`, without which a step has no meaning (R93). -/
def State.pcAligned (s : State) : Bool := s.pc.extractLsb' 0 2 == 0#2

/-- R92 step 2: `I <- MemRead(pc, 4)`, `current_instruction <- I`; `next_instruction` is left unspecified (R17;
log 6). -/
def State.fetch (s : State) : Word × State :=
  let r := s.memRead .word s.pc
  let w : Word := r.1.setWidth 32
  (w, { r.2 with
    currentInstruction := w
    nextInstruction := Config.prefetchedWord r.2.freeIndex
    freeIndex := r.2.freeIndex + 1 })

/-- A decode failure: reported, and otherwise a no-op with outcome Next (`30_encoding.md` R80; log 13). -/
def State.decodeFailure (s : State) (w : Word) : Host.Outcome State Fault Refusal :=
  (s.emit (.decodeFailure s.pc w)).finish .next

/-- R92 step 6: `x[0] <- 0` (`10_state.md` R12; log 26). -/
def State.clearZero (s : State) : State := { s with gpr := s.gpr.set 0 0#128 }

/-- R92 step 7: `Count <- (Count + 1) mod 2^32` (`60_exceptions.md` R325). -/
def State.tick (s : State) : State := s.setSlot slotCount (s.count + 1#32)

/-- R92 step 8: interrupt admission (`60_exceptions.md` R313, R314). -/
def State.admission (s : State) : State := if interruptAdmitted s.cause s.status then s.takeException .int else s

/-- R92 steps 6 to 8, in this order (D38). The effective mode is a function of `Status` (R320), so that its
recomputation writes nothing. -/
def State.bookkeeping (s : State) : State := s.clearZero.tick.admission

/-- The bookkeeping runs once per completed step, whatever the instruction's outcome (R92). -/
def bookkeepingAfter (answer : Host.Outcome State Fault Refusal) : Host.Outcome State Fault Refusal :=
  match answer with
  | .next s => .next s.bookkeeping
  | .fault r => .fault r
  | .refused r => .refused r

/-- The cell the next fetch reads first, when it is an aligned fetch from one of the byte arrays. -/
def State.fetchCell (s : State) : Option Nat :=
  if s.pcAligned then
    match route s.pc with
    | .array r offset => some (cellOf r offset)
    | _ => none
  else none

/-- A program placed from outside: the low four bytes of `w` in the cells from `cell` up, boot ROM not excepted
(`70_reset_and_hazards.md` R346; log 4). -/
def State.placeWord (s : State) (cell : Nat) (w : Nat) : State :=
  { s with mem := s.mem.writeLE cell (BitVec.ofNat 128 w) 4 }

end Sys2Proof.Machine
end

