-- ==== Sys2Proof/Machine/Step.lean ====
section
/-! DEFINITION. One step of the block (`40_step_driver.md` R92), made of the parts of Driver.lean, Decode.lean and
Dispatch.lean. -/

namespace Sys2Proof.Machine

/-- R92 steps 3 to 5: the instruction a word decodes to, or the report of a decode failure. -/
def executeWord (w : Word) (s : State) : Host.Outcome State Fault Refusal :=
  match decode w with
  | .ok i => exec i s
  | .error _ => s.decodeFailure w

/-- `Step()` (R92). Before the first reset and with a misaligned `pc` a step has no meaning (R101, R93). -/
def step (s : State) : Host.Outcome State Fault Refusal :=
  if !s.resetDone then .refused .notReset
  else if !s.pcAligned then .refused .misalignedPc
  else bookkeepingAfter (executeWord s.fetch.1 s.fetch.2)

/-- The instruction whose bits are `w` placed where the next step fetches. Where `pc` reaches no byte array, no
memory could hold it, and the fetch is moved to the boot vector; a state before its first reset is taken as after it
(log 4). -/
def State.withFetchWord (s : State) (nbits w : Nat) : State :=
  let bits := w % 2 ^ nbits
  match s.fetchCell with
  | some cell => { s.placeWord cell bits with resetDone := true }
  | none => { s.placeWord (cellOf .bootRom 0) bits with pc := Config.resetPc, resetDone := true }

end Sys2Proof.Machine
end

