-- ==== Sys2Proof/Machine/Ports.lean ====
section
/-! DEFINITION. The input ports of the block other than `step` (`00_scope.md` R4) and what the environment may do
between two steps (R5, D41). A run with an environment is a sequence of these moves; `step` by itself takes none of
them (log 18). -/

namespace Sys2Proof.Machine

/-- The `reset` strobe (`70_reset_and_hazards.md` R340): every element of R30's table; not the memories, not the
output ports. -/
def State.strobeReset (s : State) : State :=
  { State.reset with mem := s.mem, events := s.events, freeIndex := s.freeIndex }

/-- `set_pc(entry)` (R345), only after a reset (R349). -/
def State.setPc (s : State) (entry : VAddr) : Host.Outcome State Fault Refusal :=
  if s.resetDone then .next { s with pc := entry, isBranching := false, delaySlot := 0 }
  else .refused .notReset

/-- `request_interrupt(line)` (`60_exceptions.md` R312), only after a reset (R349). -/
def State.requestInterrupt (s : State) (line : Nat) : Host.Outcome State Fault Refusal :=
  if !s.resetDone then .refused .notReset
  else if line ≤ 2 then .next (s.assertLines (lineMask line))
  else .refused .noSuchInterruptLine

/-- An environment write of one byte to local RAM, companion RAM or scratchpad, between steps (R5, D41); a byte of
boot ROM or an offset outside the array is left as it is (R28: "Boot ROM never changes after launch"). -/
def State.environmentWrite (s : State) (r : Region) (offset : Nat) (b : Byte) : State :=
  if r = .bootRom ∨ regionSize r ≤ offset then s else { s with mem := s.mem.write (cellOf r offset) b }

/-- A byte of the launch image (R346): any array, before the machine runs. -/
def State.placeByte (s : State) (r : Region) (offset : Nat) (b : Byte) : State :=
  if regionSize r ≤ offset then s else { s with mem := s.mem.write (cellOf r offset) b }

/-- A move of the block or of its environment. -/
inductive Strobe
  | reset
  | setPc (entry : VAddr)
  | step
  | requestInterrupt (line : Nat)
  | environmentWrite (r : Region) (offset : Nat) (b : Byte)
deriving DecidableEq, Repr

/-- The answer to a move. -/
def strobe (p : Strobe) (s : State) : Host.Outcome State Fault Refusal :=
  match p with
  | .reset => .next s.strobeReset
  | .setPc entry => s.setPc entry
  | .step => Sys2Proof.Machine.step s
  | .requestInterrupt line => s.requestInterrupt line
  | .environmentWrite r offset b => .next (s.environmentWrite r offset b)

end Sys2Proof.Machine
end

