-- ==== Sys2Proof/Safety.lean ====
section
/-! DEFINITION. The terms claims about runs use: the invariant of the state, the diagnostic reports, a quiet step, a
run with an environment. -/

namespace Sys2Proof.Machine

/-- What holds at every step boundary: the memory is in canonical form and lists only cells of the four arrays, the
storage of `x[0]` is zero (`10_state.md` R12), `delay_slot` and `is_branching` are consistent (R16). -/
structure State.Inv (s : State) : Prop where
  memCanonical : s.mem.wf
  memInArrays : ∀ c ∈ s.mem, cellExists c.1
  zeroStored : s.gpr[0] = 0#128
  delaySlotSmall : s.delaySlot ≤ 1
  delaySlotConsistent : s.delaySlot = 1 ↔ s.isBranching = true

/-- The events of the diagnostic port, as opposed to the peripheral ports (`00_scope.md` R4). -/
def isDiagnostic : Event → Bool
  | .decodeFailure _ _ => true
  | .busError _ _ _ => true
  | .romWrite _ _ => true
  | .peripheralRead _ _ _ _ => false
  | .peripheralWrite _ _ _ _ => false

/-- The reports made so far, newest first. -/
def State.diagnostics (s : State) : List Event := s.events.filter isDiagnostic

/-- A step from `s` to `t` that reports nothing: the precondition U1 and U10 suggest for claims about programs. -/
def quietStep (s t : State) : Prop := step s = .next t ∧ t.diagnostics = s.diagnostics

/-- The state after a sequence of moves of the block and its environment, when none of them is refused. -/
def runStrobes : List Strobe → State → Option State
  | [], s => some s
  | p :: ps, s =>
    match strobe p s with
    | .next t => runStrobes ps t
    | .fault _ => none
    | .refused _ => none

/-- `n` steps from `s` are all taken, and none of them reports anything. -/
def safeRun : Nat → State → Prop
  | 0, _ => True
  | n + 1, s => ∃ t, quietStep s t ∧ safeRun n t

end Sys2Proof.Machine
end

