-- ==== Sys2Proof/Certificates/Slice0/Obligations.lean ====
section
/-! DEFINITION. The statements for the provers. First the words they are said in (what a state keeps, what an
outcome does to `pc`, what an exception entry leaves, what a bus access does), then the tables of instructions with
the formulas of their rules, then the statements, `def Obligations.<Name> : Prop`. -/

namespace Sys2Proof.Claims

open Sys2Proof.Machine

/-! ### What is kept -/

def SameGpr (s t : State) : Prop := ∀ r, t.reg r = s.reg r
def SamePairs (s t : State) : Prop := t.hi = s.hi ∧ t.lo = s.lo ∧ t.hi1 = s.hi1 ∧ t.lo1 = s.lo1
def SameSlots (s t : State) : Prop := ∀ n, t.slot n = s.slot n
def SameSlotsBut (changed : List Reg) (s t : State) : Prop := ∀ n, n ∉ changed → t.slot n = s.slot n
/-- Every byte of memory reads as before. -/
def SameMem (s t : State) : Prop := ∀ a, t.mem.read a = s.mem.read a
def SamePc (s t : State) : Prop :=
  t.pc = s.pc ∧ t.branchPc = s.branchPc ∧ t.isBranching = s.isBranching ∧ t.delaySlot = s.delaySlot
def SameLatches (s t : State) : Prop :=
  t.currentInstruction = s.currentInstruction ∧ t.nextInstruction = s.nextInstruction ∧ t.resetDone = s.resetDone
/-- Nothing went out on a port and no free value was drawn. -/
def SamePorts (s t : State) : Prop := t.events = s.events ∧ t.freeIndex = s.freeIndex

/-! ### What a control outcome does to the program counter (`40_step_driver.md` R92 step 5) -/

/-- Outcome Next: `pc + 4`, or in a delay slot the pending branch completes. -/
structure NextPc (s t : State) : Prop where
  normal : s.isBranching = false → t.pc = s.pc + 4#32 ∧ t.isBranching = false ∧ t.delaySlot = s.delaySlot
  inSlot : s.isBranching = true → t.pc = s.branchPc ∧ t.isBranching = false ∧ t.delaySlot = 0
  target : t.branchPc = s.branchPc

/-- Outcome Taken: BranchPending, `pc` at the delay slot. -/
structure TakenPc (s t : State) (target : VAddr) : Prop where
  pc : t.pc = s.pc + 4#32
  target : t.branchPc = target
  pending : t.isBranching = true
  countdown : t.delaySlot = 1

/-- Outcome Skip: the delay slot is not executed. -/
structure SkipPc (s t : State) : Prop where
  pc : t.pc = s.pc + 8#32
  target : t.branchPc = s.branchPc
  normal : t.isBranching = false
  countdown : t.delaySlot = s.delaySlot

/-! ### What a register write does (`10_state.md` R12, R13) -/

/-- `x[d][63:0] <- v` with `x[d][127:64]` and every other register unchanged; for `d = 0` nothing is written, and
`x[0]` reads as zero in any case. -/
structure WroteLow (d : Reg) (v : DWord) (s t : State) : Prop where
  value : d ≠ 0#5 → (t.reg d).setWidth 64 = v
  upper : d ≠ 0#5 → (t.reg d).extractLsb' 64 64 = (s.reg d).extractLsb' 64 64
  zero : t.reg 0#5 = 0#128
  others : ∀ r, r ≠ d → t.reg r = s.reg r

/-- The instruction completes, its one effect being a 64-bit write. -/
def CompletesWithLow (i : Instr) (s : State) (d : Reg) (v : DWord) : Prop :=
  ∃ t, exec i s = .next t ∧ NextPc s t ∧ WroteLow d v s t ∧ SamePairs s t ∧ SameSlots s t ∧ SameMem s t ∧
    SamePorts s t ∧ SameLatches s t

/-- The instruction completes with no effect but the choice of the next `pc`. -/
def CompletesWithNothing (i : Instr) (s : State) : Prop :=
  ∃ t, exec i s = .next t ∧ NextPc s t ∧ SameGpr s t ∧ SamePairs s t ∧ SameSlots s t ∧ SameMem s t ∧
    SamePorts s t ∧ SameLatches s t

/-! ### What an exception entry leaves (`60_exceptions.md` R300 to R303, R309, R310; `40_step_driver.md` R99) -/

/-- `t` is the state after the exception numbered `code`, of vector offset `offset`, is taken in `s`. The slot
`BadVAddr`, the output ports and the counter of free values are left to the statement that uses it. -/
structure EntersException (s t : State) (code : BitVec 5) (offset : VAddr) : Prop where
  pc : t.pc = (if s.status.getLsbD 22 then 0xBFC00200#32 else 0x80000000#32) +
    (if s.status.getLsbD 1 then 0x180#32 else offset)
  excCode : t.cause.extractLsb' 2 5 = code
  branchDelay : t.cause.getLsbD 31 = if s.status.getLsbD 1 then s.cause.getLsbD 31 else s.isBranching
  otherCause : ∀ b, b < 2 ∨ (7 ≤ b ∧ b < 31) → t.cause.getLsbD b = s.cause.getLsbD b
  epc : t.epc = if s.status.getLsbD 1 then s.epc else if s.isBranching then s.pc - 4#32 else s.pc
  level : t.status = s.status ||| 0x00000002#32
  otherSlots : SameSlotsBut [8#5, 12#5, 13#5, 14#5] s t
  normal : t.isBranching = false ∧ t.delaySlot = 0 ∧ t.branchPc = s.branchPc
  registers : SameGpr s t
  pairs : SamePairs s t
  memory : SameMem s t
  latches : SameLatches s t

/-! ### What a bus read does (`20_memory.md` R41, R52 to R55) -/

/-- "value = sum over k of byte[o+k] << (8k)" (R41). -/
def leValue (m : Memory) (a : Nat) : Nat → Nat
  | 0 => 0
  | n + 1 => leValue m a n + (m.read (a + n)).toNat * 2 ^ (8 * n)

/-- Only the pending bits of interrupt lines may have been set (R52, `60_exceptions.md` R312). -/
def OnlyLinesAsserted (before after : Word) : Prop :=
  ∃ lines : Word, lines &&& 0x00008C00#32 = lines ∧ after = before ||| lines

/-- `MemRead(ea, n)` in `s` answered `value` and left the ports and `Cause` as in `t`. -/
structure ReadsBus (s t : State) (w : Width) (n : Nat) (ea : VAddr) (value : Nat) : Prop where
  array : ∀ r o, route ea = .array r o →
    value = leValue s.mem (cellOf r o) n ∧ t.events = s.events ∧ t.cause = s.cause
  noTarget : ∀ p, route ea = .busError p →
    value = 0 ∧ t.events = .busError p w .load :: s.events ∧ t.cause = s.cause
  peripheral : ∀ k p, route ea = .peripheral k p → w ≠ .quad →
    ∃ answer : DWord, value = answer.toNat ∧ value < 2 ^ (8 * n) ∧
      t.events = .peripheralRead k p w answer :: s.events ∧ OnlyLinesAsserted s.cause t.cause
  peripheralQuad : ∀ k p, route ea = .peripheral k p → w = .quad →
    ∃ lo hi : DWord, value = lo.toNat + hi.toNat * 2 ^ 64 ∧
      t.events = .peripheralRead k (p + 8#29) .double hi :: .peripheralRead k p .double lo :: s.events ∧
      OnlyLinesAsserted s.cause t.cause

/-! ### What a bus write does (`20_memory.md` R42, R49, R52 to R55) -/

/-- `MemWrite(ea, n, v)` took `s` to `t`, as far as memory, the ports and `Cause` go. -/
structure WritesBus (s t : State) (w : Width) (n : Nat) (ea : VAddr) (v : Nat) : Prop where
  arrayStored : ∀ r o, route ea = .array r o → r ≠ .bootRom →
    ∀ k, k < n → t.mem.read (cellOf r o + k) = BitVec.ofNat 8 (v / 2 ^ (8 * k))
  arrayOthers : ∀ r o, route ea = .array r o → r ≠ .bootRom →
    ∀ a, a < cellOf r o ∨ cellOf r o + n ≤ a → t.mem.read a = s.mem.read a
  arrayPorts : ∀ r o, route ea = .array r o → r ≠ .bootRom → t.events = s.events ∧ t.cause = s.cause
  rom : ∀ o, route ea = .array .bootRom o →
    SameMem s t ∧ t.events = .romWrite (BitVec.ofNat 29 (0x1FC00000 + o)) w :: s.events ∧ t.cause = s.cause
  noTarget : ∀ p, route ea = .busError p →
    SameMem s t ∧ t.events = .busError p w .store :: s.events ∧ t.cause = s.cause
  peripheral : ∀ k p, route ea = .peripheral k p → w ≠ .quad →
    SameMem s t ∧ t.events = .peripheralWrite k p w (BitVec.ofNat 64 (v % 2 ^ (8 * n))) :: s.events ∧
      OnlyLinesAsserted s.cause t.cause
  peripheralQuad : ∀ k p, route ea = .peripheral k p → w = .quad →
    SameMem s t ∧ t.events = .peripheralWrite k (p + 8#29) .double (BitVec.ofNat 64 (v / 2 ^ 64)) ::
      .peripheralWrite k p .double (BitVec.ofNat 64 v) :: s.events ∧
      OnlyLinesAsserted s.cause t.cause

/-! ### The bookkeeping of a step (`40_step_driver.md` R92 steps 6 to 8) -/

/-- Steps 6 and 7: the storage of `x[0]` cleared, `Count` one larger, all else kept. -/
structure Ticked (u v : State) : Prop where
  zeroStored : v.gpr[0] = 0#128
  count : v.slot 9#5 = u.slot 9#5 + 1#32
  otherSlots : SameSlotsBut [9#5] u v
  registers : SameGpr u v
  pairs : SamePairs u v
  memory : v.mem = u.mem
  pcs : SamePc u v
  latches : SameLatches u v
  ports : SamePorts u v

/-- The condition of interrupt admission (`60_exceptions.md` R313) on `Cause` and `Status`. -/
def InterruptCondition (u : State) : Prop :=
  u.status.getLsbD 0 = true ∧ u.status.getLsbD 16 = true ∧ u.status.getLsbD 2 = false ∧ u.status.getLsbD 1 = false ∧
    ∃ b, (b = 10 ∨ b = 11 ∨ b = 15) ∧ u.cause.getLsbD b = true ∧ u.status.getLsbD b = true

/-- `t` is what the bookkeeping makes of `u`. -/
def AfterBookkeeping (u t : State) : Prop :=
  ∃ v, Ticked u v ∧
    (InterruptCondition u → EntersException v t 0#5 0x200#32 ∧ t.slot 8#5 = v.slot 8#5 ∧ SamePorts v t) ∧
    (¬ InterruptCondition u → t = v)

/-! ### Tables: which words, which instruction, which result -/

/-- A three-register instruction of SPECIAL, `op = 0x00`: its constructor `rd rs rt`, its `funct`, its result from
`x[rs]` and `x[rt]`. -/
structure ThreeReg where
  instr : Reg → Reg → Reg → Instr
  funct : BitVec 6
  result : QWord → QWord → DWord

/-- An immediate instruction: its constructor `rt rs imm`, its `op`, its result from `x[rs]` and the immediate. -/
structure Immediate where
  instr : Reg → Reg → BitVec 16 → Instr
  op : BitVec 6
  result : QWord → BitVec 16 → DWord

/-- An immediate shift of SPECIAL: its constructor `rd rt sa`, its `funct`, its result from `x[rt]` and `sa`. -/
structure ImmediateShift where
  instr : Reg → Reg → BitVec 5 → Instr
  funct : BitVec 6
  result : QWord → BitVec 5 → DWord

/-- R181 to R184. -/
def wordThreeReg : List ThreeReg :=
  [⟨.add, 0x20#6, fun a b => (a.setWidth 32 + b.setWidth 32).signExtend 64⟩,
   ⟨.addu, 0x21#6, fun a b => (a.setWidth 32 + b.setWidth 32).signExtend 64⟩,
   ⟨.sub, 0x22#6, fun a b => (a.setWidth 32 - b.setWidth 32).signExtend 64⟩,
   ⟨.subu, 0x23#6, fun a b => (a.setWidth 32 - b.setWidth 32).signExtend 64⟩]

/-- R185, R186. -/
def wordImmediate : List Immediate :=
  [⟨.addi, 0x08#6, fun a imm => (a.setWidth 32 + imm.signExtend 32).signExtend 64⟩,
   ⟨.addiu, 0x09#6, fun a imm => (a.setWidth 32 + imm.signExtend 32).signExtend 64⟩]

/-- R187 to R190. -/
def doubleThreeReg : List ThreeReg :=
  [⟨.dadd, 0x2C#6, fun a b => a.setWidth 64 + b.setWidth 64⟩,
   ⟨.daddu, 0x2D#6, fun a b => a.setWidth 64 + b.setWidth 64⟩,
   ⟨.dsub, 0x2E#6, fun a b => a.setWidth 64 - b.setWidth 64⟩,
   ⟨.dsubu, 0x2F#6, fun a b => a.setWidth 64 - b.setWidth 64⟩]

/-- R191, R192. -/
def doubleImmediate : List Immediate :=
  [⟨.daddi, 0x18#6, fun a imm => a.setWidth 64 + imm.signExtend 64⟩,
   ⟨.daddiu, 0x19#6, fun a imm => a.setWidth 64 + imm.signExtend 64⟩]

/-- R193 to R196. -/
def logicalThreeReg : List ThreeReg :=
  [⟨.and, 0x24#6, fun a b => a.setWidth 64 &&& b.setWidth 64⟩,
   ⟨.or, 0x25#6, fun a b => a.setWidth 64 ||| b.setWidth 64⟩,
   ⟨.xor, 0x26#6, fun a b => a.setWidth 64 ^^^ b.setWidth 64⟩,
   ⟨.nor, 0x27#6, fun a b => ~~~(a.setWidth 64 ||| b.setWidth 64)⟩]

/-- R197 to R199: the immediate is zero-extended. -/
def logicalImmediate : List Immediate :=
  [⟨.andi, 0x0C#6, fun a imm => a.setWidth 64 &&& imm.setWidth 64⟩,
   ⟨.ori, 0x0D#6, fun a imm => a.setWidth 64 ||| imm.setWidth 64⟩,
   ⟨.xori, 0x0E#6, fun a imm => a.setWidth 64 ^^^ imm.setWidth 64⟩]

/-- R201, R202. -/
def setLessThreeReg : List ThreeReg :=
  [⟨.slt, 0x2A#6, fun a b => if (a.setWidth 64).toInt < (b.setWidth 64).toInt then 1#64 else 0#64⟩,
   ⟨.sltu, 0x2B#6, fun a b => if (a.setWidth 64).toNat < (b.setWidth 64).toNat then 1#64 else 0#64⟩]

/-- R203, R204: the immediate is sign-extended in both. -/
def setLessImmediate : List Immediate :=
  [⟨.slti, 0x0A#6, fun a imm => if (a.setWidth 64).toInt < (imm.signExtend 64).toInt then 1#64 else 0#64⟩,
   ⟨.sltiu, 0x0B#6, fun a imm => if (a.setWidth 64).toNat < (imm.signExtend 64).toNat then 1#64 else 0#64⟩]

/-- R205 to R207. -/
def wordShifts : List ImmediateShift :=
  [⟨.sll, 0x00#6, fun a sa => (a.setWidth 32 <<< sa.toNat).signExtend 64⟩,
   ⟨.srl, 0x02#6, fun a sa => (a.setWidth 32 >>> sa.toNat).signExtend 64⟩,
   ⟨.sra, 0x03#6, fun a sa => ((a.setWidth 32).sshiftRight sa.toNat).signExtend 64⟩]

/-- R208 to R210, as `rd rt rs`: the result from `x[rt]` and `x[rs]`, whose low five bits are the amount. -/
def wordVariableShifts : List ThreeReg :=
  [⟨.sllv, 0x04#6, fun a b => (a.setWidth 32 <<< (b.toNat % 32)).signExtend 64⟩,
   ⟨.srlv, 0x06#6, fun a b => (a.setWidth 32 >>> (b.toNat % 32)).signExtend 64⟩,
   ⟨.srav, 0x07#6, fun a b => ((a.setWidth 32).sshiftRight (b.toNat % 32)).signExtend 64⟩]

/-- R211 to R216: the amount is `sa`, or `sa + 32` for the `...32` forms. -/
def doubleShifts : List ImmediateShift :=
  [⟨.dsll, 0x38#6, fun a sa => a.setWidth 64 <<< sa.toNat⟩,
   ⟨.dsrl, 0x3A#6, fun a sa => a.setWidth 64 >>> sa.toNat⟩,
   ⟨.dsra, 0x3B#6, fun a sa => (a.setWidth 64).sshiftRight sa.toNat⟩,
   ⟨.dsll32, 0x3C#6, fun a sa => a.setWidth 64 <<< (sa.toNat + 32)⟩,
   ⟨.dsrl32, 0x3E#6, fun a sa => a.setWidth 64 >>> (sa.toNat + 32)⟩,
   ⟨.dsra32, 0x3F#6, fun a sa => (a.setWidth 64).sshiftRight (sa.toNat + 32)⟩]

/-- R217 to R219, as `rd rt rs`: the result from `x[rt]` and `x[rs]`, whose low six bits are the amount. -/
def doubleVariableShifts : List ThreeReg :=
  [⟨.dsllv, 0x14#6, fun a b => a.setWidth 64 <<< (b.toNat % 64)⟩,
   ⟨.dsrlv, 0x16#6, fun a b => a.setWidth 64 >>> (b.toNat % 64)⟩,
   ⟨.dsrav, 0x17#6, fun a b => (a.setWidth 64).sshiftRight (b.toNat % 64)⟩]

/-- A three-register instruction executes as its row says: for every word with its `op` and `funct`, whatever the
bits its format does not use. -/
def ThreeRegRule (e : ThreeReg) : Prop :=
  ∀ (w : Word) (s : State), opField w = 0x00#6 → functField w = e.funct →
    decode w = .ok (e.instr (rdField w) (rsField w) (rtField w)) ∧
    CompletesWithLow (e.instr (rdField w) (rsField w) (rtField w)) s (rdField w)
      (e.result (s.reg (rsField w)) (s.reg (rtField w)))

/-- The same for a variable shift, whose operands are `rd rt rs`. -/
def VariableShiftRule (e : ThreeReg) : Prop :=
  ∀ (w : Word) (s : State), opField w = 0x00#6 → functField w = e.funct →
    decode w = .ok (e.instr (rdField w) (rtField w) (rsField w)) ∧
    CompletesWithLow (e.instr (rdField w) (rtField w) (rsField w)) s (rdField w)
      (e.result (s.reg (rtField w)) (s.reg (rsField w)))

/-- The same for an immediate shift. The all-zero word is `NOP` (R82), not this instruction. -/
def ImmediateShiftRule (e : ImmediateShift) : Prop :=
  ∀ (w : Word) (s : State), w ≠ 0#32 → opField w = 0x00#6 → functField w = e.funct →
    decode w = .ok (e.instr (rdField w) (rtField w) (saField w)) ∧
    CompletesWithLow (e.instr (rdField w) (rtField w) (saField w)) s (rdField w)
      (e.result (s.reg (rtField w)) (saField w))

/-- The same for an immediate instruction. -/
def ImmediateRule (e : Immediate) : Prop :=
  ∀ (w : Word) (s : State), opField w = e.op →
    decode w = .ok (e.instr (rtField w) (rsField w) (immField w)) ∧
    CompletesWithLow (e.instr (rtField w) (rsField w) (immField w)) s (rtField w)
      (e.result (s.reg (rsField w)) (immField w))

/-- A conditional branch: which words it is, its instruction, its condition on the registers. -/
structure BranchRow where
  selects : Word → Bool
  instr : Word → Instr
  condition : State → Word → Prop

/-- Words of REGIMM with this `rt` (`30_encoding.md` R78). -/
def regimm (rt : BitVec 5) (w : Word) : Bool := opField w == 0x01#6 && rtField w == rt

/-- `signed_64(x[rs][63:0])`. -/
def signedRs (s : State) (w : Word) : Int := ((s.reg (rsField w)).setWidth 64).toInt

/-- `x[rs][63:0] = x[rt][63:0]`. -/
def equalRsRt (s : State) (w : Word) : Prop :=
  (s.reg (rsField w)).setWidth 64 = (s.reg (rtField w)).setWidth 64

/-- R116 to R121. -/
def ordinaryBranches : List BranchRow :=
  [⟨fun w => opField w == 0x04#6, fun w => .beq (rsField w) (rtField w) (immField w), equalRsRt⟩,
   ⟨fun w => opField w == 0x05#6, fun w => .bne (rsField w) (rtField w) (immField w), fun s w => ¬ equalRsRt s w⟩,
   ⟨fun w => opField w == 0x06#6, fun w => .blez (rsField w) (immField w), fun s w => signedRs s w ≤ 0⟩,
   ⟨fun w => opField w == 0x07#6, fun w => .bgtz (rsField w) (immField w), fun s w => signedRs s w > 0⟩,
   ⟨regimm 0x00#5, fun w => .bltz (rsField w) (immField w), fun s w => signedRs s w < 0⟩,
   ⟨regimm 0x01#5, fun w => .bgez (rsField w) (immField w), fun s w => signedRs s w ≥ 0⟩]

/-- R122 to R127. -/
def likelyBranches : List BranchRow :=
  [⟨fun w => opField w == 0x14#6, fun w => .beql (rsField w) (rtField w) (immField w), equalRsRt⟩,
   ⟨fun w => opField w == 0x15#6, fun w => .bnel (rsField w) (rtField w) (immField w), fun s w => ¬ equalRsRt s w⟩,
   ⟨fun w => opField w == 0x16#6, fun w => .blezl (rsField w) (immField w), fun s w => signedRs s w ≤ 0⟩,
   ⟨fun w => opField w == 0x17#6, fun w => .bgtzl (rsField w) (immField w), fun s w => signedRs s w > 0⟩,
   ⟨regimm 0x02#5, fun w => .bltzl (rsField w) (immField w), fun s w => signedRs s w < 0⟩,
   ⟨regimm 0x03#5, fun w => .bgezl (rsField w) (immField w), fun s w => signedRs s w ≥ 0⟩]

/-- R128, R129. -/
def ordinaryLinkBranches : List BranchRow :=
  [⟨regimm 0x10#5, fun w => .bltzal (rsField w) (immField w), fun s w => signedRs s w < 0⟩,
   ⟨regimm 0x11#5, fun w => .bgezal (rsField w) (immField w), fun s w => signedRs s w ≥ 0⟩]

/-- R130, R131. -/
def likelyLinkBranches : List BranchRow :=
  [⟨regimm 0x12#5, fun w => .bltzall (rsField w) (immField w), fun s w => signedRs s w < 0⟩,
   ⟨regimm 0x13#5, fun w => .bgezall (rsField w) (immField w), fun s w => signedRs s w ≥ 0⟩]

/-- `bt` of R110. -/
def branchGoal (s : State) (w : Word) : VAddr := s.pc + 4#32 + (immField w).signExtend 32 * 4#32

/-- `link` of R111: `pc + 8` zero-extended to 64 bits. -/
def linkAddress (s : State) : DWord := (s.pc + 8#32).setWidth 64

/-- An aligned load, `OP rt, offset(base)`: constructor, `op`, width, bytes, the 64 bits written from the value
read. -/
structure LoadRow where
  instr : Reg → Reg → BitVec 16 → Instr
  op : BitVec 6
  width : Width
  bytes : Nat
  extend : Nat → DWord

/-- R141 to R147. -/
def alignedLoads : List LoadRow :=
  [⟨.lb, 0x20#6, .byte, 1, fun v => (BitVec.ofNat 8 v).signExtend 64⟩,
   ⟨.lbu, 0x24#6, .byte, 1, fun v => BitVec.ofNat 64 v⟩,
   ⟨.lh, 0x21#6, .half, 2, fun v => (BitVec.ofNat 16 v).signExtend 64⟩,
   ⟨.lhu, 0x25#6, .half, 2, fun v => BitVec.ofNat 64 v⟩,
   ⟨.lw, 0x23#6, .word, 4, fun v => (BitVec.ofNat 32 v).signExtend 64⟩,
   ⟨.lwu, 0x27#6, .word, 4, fun v => BitVec.ofNat 64 v⟩,
   ⟨.ld, 0x37#6, .double, 8, fun v => BitVec.ofNat 64 v⟩]

/-- An aligned store: constructor, `op`, width, bytes. -/
structure StoreRow where
  instr : Reg → Reg → BitVec 16 → Instr
  op : BitVec 6
  width : Width
  bytes : Nat

/-- R149 to R153. -/
def alignedStores : List StoreRow :=
  [⟨.sb, 0x28#6, .byte, 1⟩, ⟨.sh, 0x29#6, .half, 2⟩, ⟨.sw, 0x2B#6, .word, 4⟩, ⟨.sd, 0x3F#6, .double, 8⟩,
   ⟨.sq, 0x1F#6, .quad, 16⟩]

/-- `ea = (x[base][31:0] + sext_32(offset)) mod 2^32` (R140). -/
def accessAddress (s : State) (w : Word) : VAddr := (s.reg (rsField w)).setWidth 32 + (immField w).signExtend 32

/-- The instruction a word stands for as a load or store. -/
def accessInstr (instr : Reg → Reg → BitVec 16 → Instr) (w : Word) : Instr :=
  instr (rtField w) (rsField w) (immField w)

/-- An access completes: what it leaves alone whatever its target. -/
structure AccessFrame (s t : State) : Prop where
  next : NextPc s t
  pairs : SamePairs s t
  slots : SameSlotsBut [13#5] s t
  latches : SameLatches s t

/-- The words of the instructions that have no effect (R288 to R295). -/
def noEffectWords : List ((Word → Bool) × (Word → Instr)) :=
  [(fun w => w == 0#32, fun _ => .nop),
   (fun w => opField w == 0x00#6 && functField w == 0x0F#6, fun w => .sync (saField w)),
   (fun w => opField w == 0x2F#6, fun w => .cache (rtField w) (rsField w) (immField w)),
   (fun w => opField w == 0x33#6, fun w => .pref (rtField w) (rsField w) (immField w)),
   (fun w => opField w == 0x10#6 && rsField w == 0x10#5 && functField w == 0x01#6, fun _ => .tlbr),
   (fun w => opField w == 0x10#6 && rsField w == 0x10#5 && functField w == 0x02#6, fun _ => .tlbwi),
   (fun w => opField w == 0x10#6 && rsField w == 0x10#5 && functField w == 0x06#6, fun _ => .tlbwr),
   (fun w => opField w == 0x10#6 && rsField w == 0x10#5 && functField w == 0x08#6, fun _ => .tlbp)]

/-- The words of COP0 with `rs = 0x10` and this `funct` (`30_encoding.md` R79). -/
def cop0Co (funct : BitVec 6) (w : Word) : Bool :=
  opField w == 0x10#6 && rsField w == 0x10#5 && functField w == funct

/-- The four entry points that can be reached (`60_exceptions.md` R303). -/
def isEntryPoint (a : VAddr) : Prop :=
  a = 0x80000180#32 ∨ a = 0xBFC00380#32 ∨ a = 0x80000200#32 ∨ a = 0xBFC00400#32

/-! ### What an instruction may write at all -/

/-- The general register an instruction names as destination, explicitly or implicitly. -/
def destination : Instr → Option Reg
  | .jal _ | .bltzal _ _ | .bgezal _ _ | .bltzall _ _ | .bgezall _ _ => some 31#5
  | .jalr rd _ => some rd
  | .lb rt _ _ | .lbu rt _ _ | .lh rt _ _ | .lhu rt _ _ | .lw rt _ _ | .lwu rt _ _ | .ld rt _ _ | .lq rt _ _ => some rt
  | .lwl rt _ _ | .lwr rt _ _ | .ldl rt _ _ | .ldr rt _ _ => some rt
  | .add rd _ _ | .addu rd _ _ | .sub rd _ _ | .subu rd _ _ | .dadd rd _ _ | .daddu rd _ _ | .dsub rd _ _ => some rd
  | .dsubu rd _ _ | .and rd _ _ | .or rd _ _ | .xor rd _ _ | .nor rd _ _ | .slt rd _ _ | .sltu rd _ _ => some rd
  | .addi rt _ _ | .addiu rt _ _ | .daddi rt _ _ | .daddiu rt _ _ | .andi rt _ _ | .ori rt _ _ | .xori rt _ _ => some rt
  | .slti rt _ _ | .sltiu rt _ _ | .lui rt _ | .mfc0 rt _ => some rt
  | .sll rd _ _ | .srl rd _ _ | .sra rd _ _ | .sllv rd _ _ | .srlv rd _ _ | .srav rd _ _ => some rd
  | .dsll rd _ _ | .dsrl rd _ _ | .dsra rd _ _ | .dsll32 rd _ _ | .dsrl32 rd _ _ | .dsra32 rd _ _ => some rd
  | .dsllv rd _ _ | .dsrlv rd _ _ | .dsrav rd _ _ | .movz rd _ _ | .movn rd _ _ => some rd
  | .mult rd _ _ | .multu rd _ _ | .mult1 rd _ _ | .multu1 rd _ _ => some rd
  | .mfhi rd | .mflo rd | .mfhi1 rd | .mflo1 rd => some rd
  | _ => none

/-- Writes `HI` or `LO` (`10_state.md` R31). -/
def writesPair : Instr → Bool
  | .mult _ _ _ | .multu _ _ _ | .div _ _ | .divu _ _ | .mthi _ | .mtlo _ => true
  | _ => false

/-- Writes `HI1` or `LO1` (R31). -/
def writesPair1 : Instr → Bool
  | .mult1 _ _ _ | .multu1 _ _ _ | .div1 _ _ | .divu1 _ _ | .mthi1 _ | .mtlo1 _ => true
  | _ => false

/-- The effective address of an instruction that stores to memory (R31, `42_load_store.md` R140). -/
def storeAddress (s : State) : Instr → Option VAddr
  | .sb _ base offset | .sh _ base offset | .sw _ base offset | .sd _ base offset | .sq _ base offset =>
    some (s.effectiveAddress base offset)
  | .swl _ base offset | .swr _ base offset | .sdl _ base offset | .sdr _ base offset =>
    some (s.effectiveAddress base offset)
  | _ => none

/-- A control transfer of `40_step_driver.md` R98, in the forms that have no meaning in a delay slot whatever the
registers hold. -/
def neverInDelaySlot : Instr → Bool
  | .j _ | .jal _ | .jr _ | .jalr _ _ | .eret => true
  | .bltzal _ _ | .bgezal _ _ | .bltzall _ _ | .bgezall _ _ => true
  | _ => false

/-- A jump or a branch (`41_branch_jump.md`). -/
def isJumpOrBranch : Instr → Bool
  | .j _ | .jal _ | .jr _ | .jalr _ _ => true
  | .beq _ _ _ | .bne _ _ _ | .blez _ _ | .bgtz _ _ | .bltz _ _ | .bgez _ _ => true
  | .beql _ _ _ | .bnel _ _ _ | .blezl _ _ | .bgtzl _ _ | .bltzl _ _ | .bgezl _ _ => true
  | .bltzal _ _ | .bgezal _ _ | .bltzall _ _ | .bgezall _ _ => true
  | _ => false

/-- A likely branch, which annuls its delay slot when not taken (`40_step_driver.md` R96). -/
def isLikely : Instr → Bool
  | .beql _ _ _ | .bnel _ _ _ | .blezl _ _ | .bgtzl _ _ | .bltzl _ _ | .bgezl _ _ => true
  | .bltzall _ _ | .bgezall _ _ => true
  | _ => false

/-! ### Jumps and branches complete -/

/-- What happens to the link register: it receives `link` (R111), or there is none. -/
def Links (link : Option Reg) (s t : State) : Prop :=
  match link with
  | some r => WroteLow r (linkAddress s) s t
  | none => SameGpr s t

/-- The instruction completes with outcome Taken. -/
def CompletesTaken (i : Instr) (s : State) (target : VAddr) (link : Option Reg) : Prop :=
  ∃ t, exec i s = .next t ∧ TakenPc s t target ∧ Links link s t ∧ SamePairs s t ∧ SameSlots s t ∧ SameMem s t ∧
    SamePorts s t ∧ SameLatches s t

/-- The instruction completes with outcome Skip. -/
def CompletesSkip (i : Instr) (s : State) (link : Option Reg) : Prop :=
  ∃ t, exec i s = .next t ∧ SkipPc s t ∧ Links link s t ∧ SamePairs s t ∧ SameSlots s t ∧ SameMem s t ∧
    SamePorts s t ∧ SameLatches s t

/-- `jt = (pc + 4)[31:28] || index || 00` (R110), as a number. -/
def jumpGoal (s : State) (w : Word) : VAddr :=
  BitVec.ofNat 32 ((s.pc + 4#32).toNat / 2 ^ 28 * 2 ^ 28 + (indexField w).toNat * 4)

/-! ### The left/right accesses, byte by byte (`43_unaligned.md`) -/

/-- Byte `j` of a number, 0 being the least significant. -/
def byteOf (v j : Nat) : Nat := v / 2 ^ (8 * j) % 256

/-- `k = ea mod n`, the byte offset in the aligned unit of `n` bytes (R160). -/
def unitOffset (s : State) (w : Word) (n : Nat) : Nat := (accessAddress s w).toNat % n

/-- `a = ea - k`, the aligned unit of `n` bytes (R160). -/
def unitAddress (s : State) (w : Word) (n : Nat) : VAddr := accessAddress s w - BitVec.ofNat 32 (unitOffset s w n)

/-- A left/right load: constructor, `op`, width, bytes of the unit; for offset `k` and register byte `j`, the memory
byte that goes there, or none where the register keeps its byte; the 64 bits written from the merged unit. -/
structure MergeLoadRow where
  instr : Reg → Reg → BitVec 16 → Instr
  op : BitVec 6
  width : Width
  bytes : Nat
  source : Nat → Nat → Option Nat
  extend : Nat → DWord

/-- "memory bytes `a .. ea` replace the top `k+1` bytes" (R161, R163); "memory bytes `ea .. a+3` replace the low
`4-k` bytes" (R162), `ea .. a+7` the low `8-k` (R164). The word forms write the merged word sign-extended (R160). -/
def mergeLoads : List MergeLoadRow :=
  [⟨.lwl, 0x22#6, .word, 4, fun k j => if 3 ≤ j + k then some (j + k - 3) else none,
      fun v => (BitVec.ofNat 32 v).signExtend 64⟩,
   ⟨.lwr, 0x26#6, .word, 4, fun k j => if j + k < 4 then some (j + k) else none,
      fun v => (BitVec.ofNat 32 v).signExtend 64⟩,
   ⟨.ldl, 0x1A#6, .double, 8, fun k j => if 7 ≤ j + k then some (j + k - 7) else none, fun v => BitVec.ofNat 64 v⟩,
   ⟨.ldr, 0x1B#6, .double, 8, fun k j => if j + k < 8 then some (j + k) else none, fun v => BitVec.ofNat 64 v⟩]

/-- A left/right store: constructor, `op`, width, bytes of the unit; for offset `k` and byte `q` of the unit, the
register byte stored there, or none where the byte read is written back. -/
structure MergeStoreRow where
  instr : Reg → Reg → BitVec 16 → Instr
  op : BitVec 6
  width : Width
  bytes : Nat
  source : Nat → Nat → Option Nat

/-- "the top `k+1` bytes of `x[rt][31:0]` go to addresses `a .. ea`" (R165), of `x[rt][63:0]` (R167); "the low
`4-k` bytes ... go to addresses `ea .. a+3`" (R166), the low `8-k` to `ea .. a+7` (R168). -/
def mergeStores : List MergeStoreRow :=
  [⟨.swl, 0x2A#6, .word, 4, fun k q => if q ≤ k then some (q + 3 - k) else none⟩,
   ⟨.swr, 0x2E#6, .word, 4, fun k q => if k ≤ q then some (q - k) else none⟩,
   ⟨.sdl, 0x2C#6, .double, 8, fun k q => if q ≤ k then some (q + 7 - k) else none⟩,
   ⟨.sdr, 0x2D#6, .double, 8, fun k q => if k ≤ q then some (q - k) else none⟩]

/-- Byte `j` is `taken`'s byte `q` where the source says `some q`, and `kept`'s byte `j` elsewhere. -/
def mergedByte (source : Option Nat) (taken kept j : Nat) : Nat :=
  match source with
  | some q => byteOf taken q
  | none => byteOf kept j

/-- The two loads of an idiom, executed one after the other, leave `v` in `x[d][63:0]` (R169). -/
def PairLoads (first second : Instr) (s : State) (d : Reg) (v : DWord) : Prop :=
  ∃ t u, exec first s = .next t ∧ exec second t = .next u ∧ (u.reg d).setWidth 64 = v

/-- An access that checks alignment (`20_memory.md` R56): constructor, `op`, boundary, exception code. -/
structure AlignmentRow where
  instr : Reg → Reg → BitVec 16 → Instr
  op : BitVec 6
  bytes : Nat
  code : BitVec 5

/-- The rows of R56 that can raise. -/
def alignmentRows : List AlignmentRow :=
  [⟨.lh, 0x21#6, 2, 4#5⟩, ⟨.lhu, 0x25#6, 2, 4#5⟩, ⟨.lw, 0x23#6, 4, 4#5⟩, ⟨.lwu, 0x27#6, 4, 4#5⟩,
   ⟨.ld, 0x37#6, 8, 4#5⟩, ⟨.lq, 0x1E#6, 16, 4#5⟩, ⟨.sh, 0x29#6, 2, 5#5⟩, ⟨.sw, 0x2B#6, 4, 5#5⟩,
   ⟨.sd, 0x3F#6, 8, 5#5⟩, ⟨.sq, 0x1F#6, 16, 5#5⟩]

/-- Number and vector offset of each exception code (`60_exceptions.md` R301, R302). -/
def exceptionRows : List (ExcCode × BitVec 5 × VAddr) :=
  [(.int, 0#5, 0x200#32), (.tlbL, 2#5, 0x000#32), (.tlbS, 3#5, 0x000#32), (.adEL, 4#5, 0x180#32),
   (.adES, 5#5, 0x180#32), (.sys, 8#5, 0x180#32), (.bp, 9#5, 0x180#32)]

/-! ### Multiply and divide (`45_muldiv.md`) -/

/-- `LO <- lo`, `HI <- hi`, or in the second unit `LO1`, `HI1`; the other pair unchanged. -/
def WrotePair (second : Bool) (lo hi : DWord) (s t : State) : Prop :=
  if second then t.lo1 = lo ∧ t.hi1 = hi ∧ t.lo = s.lo ∧ t.hi = s.hi
  else t.lo = lo ∧ t.hi = hi ∧ t.lo1 = s.lo1 ∧ t.hi1 = s.hi1

/-- `s32` of a number (R240): its low 32 bits, sign-extended. -/
def s32 (v : Int) : DWord := (BitVec.ofInt 32 v).signExtend 64

/-- A multiply or divide: its `op`, its `funct`, whether it belongs to the second unit. -/
structure PairCode where
  op : BitVec 6
  funct : BitVec 6
  second : Bool

/-- A multiply executes as R242 says, with this exact product: `LO` gets bits 31:0 of it, `HI` bits 63:32, each
sign-extended, and `x[rd]` a copy of `LO`. -/
def MultiplyRule (instr : Reg → Reg → Reg → Instr) (c : PairCode) (product : Word → Word → Int) : Prop :=
  ∀ (w : Word) (s : State), opField w = c.op → functField w = c.funct →
    decode w = .ok (instr (rdField w) (rsField w) (rtField w)) ∧
    ∃ t, exec (instr (rdField w) (rsField w) (rtField w)) s = .next t ∧ NextPc s t ∧
      (∀ p, p = product ((s.reg (rsField w)).setWidth 32) ((s.reg (rtField w)).setWidth 32) →
        WrotePair c.second (s32 p) (s32 (p / 2 ^ 32)) s t ∧ WroteLow (rdField w) (s32 p) s t) ∧
      SameSlots s t ∧ SameMem s t ∧ SamePorts s t ∧ SameLatches s t

/-- A divide executes as R244 or R245 says: in the corner, `DIV0` of the operands; else this quotient, and the
remainder `n - q * d`. No general register is written. -/
def DivideRule (instr : Reg → Reg → Instr) (c : PairCode) (kind : DivKind) (corner : Word → Word → Prop)
    (value : Word → Int) (quotient : Int → Int → Int) : Prop :=
  ∀ (w : Word) (s : State), opField w = c.op → functField w = c.funct →
    decode w = .ok (instr (rsField w) (rtField w)) ∧
    ∃ t, exec (instr (rsField w) (rtField w)) s = .next t ∧ NextPc s t ∧
      (∀ n d, n = (s.reg (rsField w)).setWidth 32 → d = (s.reg (rtField w)).setWidth 32 →
        (corner n d → WrotePair c.second (Config.div0 kind n d).1 (Config.div0 kind n d).2 s t) ∧
        (¬ corner n d → ∀ q, q = quotient (value n) (value d) →
          WrotePair c.second (s32 q) (s32 (value n - q * value d)) s t)) ∧
      SameGpr s t ∧ SameSlots s t ∧ SameMem s t ∧ SamePorts s t ∧ SameLatches s t

/-- A word of this `op` and `funct`. -/
def selects (op funct : BitVec 6) (w : Word) : Prop := opField w = op ∧ functField w = funct

/-- The instruction completes having replaced `HI`, `LO`, `HI1`, `LO1` by these values, and nothing else. -/
def CompletesWithPairs (i : Instr) (s : State) (hi lo hi1 lo1 : DWord) : Prop :=
  ∃ t, exec i s = .next t ∧ NextPc s t ∧ (t.hi = hi ∧ t.lo = lo ∧ t.hi1 = hi1 ∧ t.lo1 = lo1) ∧ SameGpr s t ∧
    SameSlots s t ∧ SameMem s t ∧ SamePorts s t ∧ SameLatches s t

/-- The instruction completes having written this value to one control slot, and nothing else. -/
def CompletesWithSlot (i : Instr) (s : State) (n : Reg) (v : Word) : Prop :=
  ∃ t, exec i s = .next t ∧ NextPc s t ∧ t.slot n = v ∧ SameSlotsBut [n] s t ∧ SameGpr s t ∧ SamePairs s t ∧
    SameMem s t ∧ SamePorts s t ∧ SameLatches s t

/-- The condition of `EI` and `DI` (`47_system_cop0.md` R286), on the stored bits. -/
def MayChangeEIE (s : State) : Prop :=
  s.status.getLsbD 17 = true ∨ s.status.getLsbD 1 = true ∨ s.status.getLsbD 2 = true ∨
    (s.status.getLsbD 3 = false ∧ s.status.getLsbD 4 = false)

/-! ### The effective mode as an input (`60_exceptions.md` R321) -/

/-- The state with another value in `Status.KSU`. -/
def withKSU (k : BitVec 2) (s : State) : State :=
  s.setStatus ((s.status &&& 0xFFFFFFE7#32) ||| k.setWidth 32 <<< 3)

/-- An outcome with its next state changed. -/
def mapNext (f : State → State) : Host.Outcome State Fault Refusal → Host.Outcome State Fault Refusal
  | .next t => .next (f t)
  | .fault r => .fault r
  | .refused r => .refused r

/-! ### The map of addresses (`20_memory.md` R43, R51) -/

/-- `PERIPH_TABLE` with its numbers (R51). -/
def peripheralRanges : List (Peripheral × Nat × Nat) :=
  [(.intcStatus, 0x1000F000, 0x1000F003), (.intcMask, 0x1000F010, 0x1000F013),
   (.dmacChannels, 0x10008000, 0x1000EFFF), (.dmacEnableRead, 0x1000F520, 0x1000F523),
   (.dmacEnableWrite, 0x1000F590, 0x1000F593), (.packetUnpack, 0x10003800, 0x10003FFF),
   (.gsPrivileged, 0x12000000, 0x12001FFF), (.timers, 0x10000000, 0x10001FFF),
   (.mailbox, 0x1000F200, 0x1000F26F), (.ipuRegisters, 0x10002000, 0x1000203F),
   (.ipuFifo, 0x10007000, 0x1000701F)]

/-- Steps 2 and 3 of R43: the alias window, and the mask to 29 bits. -/
def physicalNumber (va : Nat) : Nat :=
  (if 0x30100000 ≤ va ∧ va ≤ 0x31FFFFFF then va - 0x30000000 else va) % 2 ^ 29

/-! ### Bits that decoding ignores (`30_encoding.md` R83) -/

/-- The bits of its word that an instruction's rule does not name and its encoding here does not keep. -/
def ignoredBits : Instr → Word
  | .sll _ _ _ | .srl _ _ _ | .sra _ _ _ | .dsll _ _ _ | .dsrl _ _ _ | .dsra _ _ _ => 0x03E00000#32
  | .dsll32 _ _ _ | .dsrl32 _ _ _ | .dsra32 _ _ _ | .lui _ _ => 0x03E00000#32
  | .add _ _ _ | .addu _ _ _ | .sub _ _ _ | .subu _ _ _ | .dadd _ _ _ | .daddu _ _ _ | .dsub _ _ _ => 0x000007C0#32
  | .dsubu _ _ _ | .and _ _ _ | .or _ _ _ | .xor _ _ _ | .nor _ _ _ | .slt _ _ _ | .sltu _ _ _ => 0x000007C0#32
  | .sllv _ _ _ | .srlv _ _ _ | .srav _ _ _ | .dsllv _ _ _ | .dsrlv _ _ _ | .dsrav _ _ _ => 0x000007C0#32
  | .movz _ _ _ | .movn _ _ _ | .mult _ _ _ | .multu _ _ _ | .mult1 _ _ _ | .multu1 _ _ _ => 0x000007C0#32
  | .jr _ | .mthi _ | .mtlo _ | .mthi1 _ | .mtlo1 _ => 0x001FFFC0#32
  | .jalr _ _ => 0x001F07C0#32
  | .mfhi _ | .mflo _ | .mfhi1 _ | .mflo1 _ => 0x03FF07C0#32
  | .div _ _ | .divu _ _ | .div1 _ _ | .divu1 _ _ => 0x0000FFC0#32
  | .mfc0 _ _ | .mtc0 _ _ => 0x000007FF#32
  | .eret | .ei | .di | .tlbr | .tlbwi | .tlbwr | .tlbp => 0x001FFFC0#32
  | .blez _ _ | .bgtz _ _ | .blezl _ _ | .bgtzl _ _ => 0x001F0000#32
  | .sync _ => 0x03FFF800#32
  | _ => 0#32

/-- Words the rules of spec/ give as examples, with the instruction each is said to be. -/
def specWords : List (Word × Instr) :=
  [(0x00000000#32, .nop), (0x08040010#32, .j 0x40010#26), (0x0080F809#32, .jalr 31 4), (0x1420FFFE#32, .bne 1 0 0xFFFE#16),
   (0x04930001#32, .bgezall 4 1#16), (0x8C620004#32, .lw 2 3 4#16), (0x78620000#32, .lq 2 3 0#16),
   (0xAC620004#32, .sw 2 3 4#16), (0x88620004#32, .lwl 2 3 4#16), (0xB4620003#32, .sdr 2 3 3#16),
   (0x00851020#32, .add 2 4 5), (0x3C081234#32, .lui 8 0x1234#16), (0x00051100#32, .sll 2 5 4),
   (0x00851014#32, .dsllv 2 5 4), (0x0005113F#32, .dsra32 2 5 4), (0x70851018#32, .mult1 2 4 5),
   (0x0085001A#32, .div 4 5), (0x00001010#32, .mfhi 2), (0x0085100A#32, .movz 2 4 5), (0x0000000C#32, .syscall 0),
   (0x40026000#32, .mfc0 2 12), (0x40826000#32, .mtc0 2 12), (0x42000018#32, .eret), (0xBC000000#32, .cache 0 0 0#16)]

/-! ### The opcode table (`opcode_table.json`, `30_encoding.md` R76) -/

/-- The mnemonic of an instruction, as the table spells it. -/
def mnemonic : Instr → String
  | .j _ => "J"
  | .jal _ => "JAL"
  | .jr _ => "JR"
  | .jalr _ _ => "JALR"
  | .beq _ _ _ => "BEQ"
  | .bne _ _ _ => "BNE"
  | .blez _ _ => "BLEZ"
  | .bgtz _ _ => "BGTZ"
  | .bltz _ _ => "BLTZ"
  | .bgez _ _ => "BGEZ"
  | .beql _ _ _ => "BEQL"
  | .bnel _ _ _ => "BNEL"
  | .blezl _ _ => "BLEZL"
  | .bgtzl _ _ => "BGTZL"
  | .bltzl _ _ => "BLTZL"
  | .bgezl _ _ => "BGEZL"
  | .bltzal _ _ => "BLTZAL"
  | .bgezal _ _ => "BGEZAL"
  | .bltzall _ _ => "BLTZALL"
  | .bgezall _ _ => "BGEZALL"
  | .lb _ _ _ => "LB"
  | .lbu _ _ _ => "LBU"
  | .lh _ _ _ => "LH"
  | .lhu _ _ _ => "LHU"
  | .lw _ _ _ => "LW"
  | .lwu _ _ _ => "LWU"
  | .ld _ _ _ => "LD"
  | .lq _ _ _ => "LQ"
  | .sb _ _ _ => "SB"
  | .sh _ _ _ => "SH"
  | .sw _ _ _ => "SW"
  | .sd _ _ _ => "SD"
  | .sq _ _ _ => "SQ"
  | .lwl _ _ _ => "LWL"
  | .lwr _ _ _ => "LWR"
  | .ldl _ _ _ => "LDL"
  | .ldr _ _ _ => "LDR"
  | .swl _ _ _ => "SWL"
  | .swr _ _ _ => "SWR"
  | .sdl _ _ _ => "SDL"
  | .sdr _ _ _ => "SDR"
  | .add _ _ _ => "ADD"
  | .addu _ _ _ => "ADDU"
  | .sub _ _ _ => "SUB"
  | .subu _ _ _ => "SUBU"
  | .addi _ _ _ => "ADDI"
  | .addiu _ _ _ => "ADDIU"
  | .dadd _ _ _ => "DADD"
  | .daddu _ _ _ => "DADDU"
  | .dsub _ _ _ => "DSUB"
  | .dsubu _ _ _ => "DSUBU"
  | .daddi _ _ _ => "DADDI"
  | .daddiu _ _ _ => "DADDIU"
  | .and _ _ _ => "AND"
  | .or _ _ _ => "OR"
  | .xor _ _ _ => "XOR"
  | .nor _ _ _ => "NOR"
  | .andi _ _ _ => "ANDI"
  | .ori _ _ _ => "ORI"
  | .xori _ _ _ => "XORI"
  | .lui _ _ => "LUI"
  | .slt _ _ _ => "SLT"
  | .sltu _ _ _ => "SLTU"
  | .slti _ _ _ => "SLTI"
  | .sltiu _ _ _ => "SLTIU"
  | .sll _ _ _ => "SLL"
  | .srl _ _ _ => "SRL"
  | .sra _ _ _ => "SRA"
  | .sllv _ _ _ => "SLLV"
  | .srlv _ _ _ => "SRLV"
  | .srav _ _ _ => "SRAV"
  | .dsll _ _ _ => "DSLL"
  | .dsrl _ _ _ => "DSRL"
  | .dsra _ _ _ => "DSRA"
  | .dsll32 _ _ _ => "DSLL32"
  | .dsrl32 _ _ _ => "DSRL32"
  | .dsra32 _ _ _ => "DSRA32"
  | .dsllv _ _ _ => "DSLLV"
  | .dsrlv _ _ _ => "DSRLV"
  | .dsrav _ _ _ => "DSRAV"
  | .mult _ _ _ => "MULT"
  | .multu _ _ _ => "MULTU"
  | .mult1 _ _ _ => "MULT1"
  | .multu1 _ _ _ => "MULTU1"
  | .div _ _ => "DIV"
  | .divu _ _ => "DIVU"
  | .div1 _ _ => "DIV1"
  | .divu1 _ _ => "DIVU1"
  | .mfhi _ => "MFHI"
  | .mflo _ => "MFLO"
  | .mthi _ => "MTHI"
  | .mtlo _ => "MTLO"
  | .mfhi1 _ => "MFHI1"
  | .mflo1 _ => "MFLO1"
  | .mthi1 _ => "MTHI1"
  | .mtlo1 _ => "MTLO1"
  | .movz _ _ _ => "MOVZ"
  | .movn _ _ _ => "MOVN"
  | .nop => "NOP"
  | .syscall _ => "SYSCALL"
  | .breakpoint _ => "BREAK"
  | .mfc0 _ _ => "MFC0"
  | .mtc0 _ _ => "MTC0"
  | .eret => "ERET"
  | .ei => "EI"
  | .di => "DI"
  | .sync _ => "SYNC"
  | .cache _ _ _ => "CACHE"
  | .pref _ _ _ => "PREF"
  | .tlbr => "TLBR"
  | .tlbwi => "TLBWI"
  | .tlbwr => "TLBWR"
  | .tlbp => "TLBP"

/-- A row of the table: a word is of this row when its bits under `mask` are `bits`. -/
structure OpcodeRow where
  name : String
  mask : Word
  bits : Word
deriving DecidableEq, Repr

/-- The row that "takes precedence over the `SLL` row" (R82). -/
def nopRow : List OpcodeRow :=
  [⟨"NOP", 0xFFFFFFFF#32, 0x00000000#32⟩]

/-- Rows of `41_branch_jump.md`. -/
def branchRows : List OpcodeRow :=
  [⟨"J", 0xFC000000#32, 0x08000000#32⟩, ⟨"JAL", 0xFC000000#32, 0x0C000000#32⟩,
   ⟨"JR", 0xFC00003F#32, 0x00000008#32⟩, ⟨"JALR", 0xFC00003F#32, 0x00000009#32⟩,
   ⟨"BEQ", 0xFC000000#32, 0x10000000#32⟩, ⟨"BNE", 0xFC000000#32, 0x14000000#32⟩,
   ⟨"BLEZ", 0xFC000000#32, 0x18000000#32⟩, ⟨"BGTZ", 0xFC000000#32, 0x1C000000#32⟩,
   ⟨"BLTZ", 0xFC1F0000#32, 0x04000000#32⟩, ⟨"BGEZ", 0xFC1F0000#32, 0x04010000#32⟩,
   ⟨"BEQL", 0xFC000000#32, 0x50000000#32⟩, ⟨"BNEL", 0xFC000000#32, 0x54000000#32⟩,
   ⟨"BLEZL", 0xFC000000#32, 0x58000000#32⟩, ⟨"BGTZL", 0xFC000000#32, 0x5C000000#32⟩,
   ⟨"BLTZL", 0xFC1F0000#32, 0x04020000#32⟩, ⟨"BGEZL", 0xFC1F0000#32, 0x04030000#32⟩,
   ⟨"BLTZAL", 0xFC1F0000#32, 0x04100000#32⟩, ⟨"BGEZAL", 0xFC1F0000#32, 0x04110000#32⟩,
   ⟨"BLTZALL", 0xFC1F0000#32, 0x04120000#32⟩, ⟨"BGEZALL", 0xFC1F0000#32, 0x04130000#32⟩]

/-- Rows of `42_load_store.md`. -/
def loadStoreRows : List OpcodeRow :=
  [⟨"LB", 0xFC000000#32, 0x80000000#32⟩, ⟨"LBU", 0xFC000000#32, 0x90000000#32⟩,
   ⟨"LH", 0xFC000000#32, 0x84000000#32⟩, ⟨"LHU", 0xFC000000#32, 0x94000000#32⟩,
   ⟨"LW", 0xFC000000#32, 0x8C000000#32⟩, ⟨"LWU", 0xFC000000#32, 0x9C000000#32⟩,
   ⟨"LD", 0xFC000000#32, 0xDC000000#32⟩, ⟨"LQ", 0xFC000000#32, 0x78000000#32⟩,
   ⟨"SB", 0xFC000000#32, 0xA0000000#32⟩, ⟨"SH", 0xFC000000#32, 0xA4000000#32⟩,
   ⟨"SW", 0xFC000000#32, 0xAC000000#32⟩, ⟨"SD", 0xFC000000#32, 0xFC000000#32⟩,
   ⟨"SQ", 0xFC000000#32, 0x7C000000#32⟩]

/-- Rows of `43_unaligned.md`. -/
def unalignedRows : List OpcodeRow :=
  [⟨"LWL", 0xFC000000#32, 0x88000000#32⟩, ⟨"LWR", 0xFC000000#32, 0x98000000#32⟩,
   ⟨"LDL", 0xFC000000#32, 0x68000000#32⟩, ⟨"LDR", 0xFC000000#32, 0x6C000000#32⟩,
   ⟨"SWL", 0xFC000000#32, 0xA8000000#32⟩, ⟨"SWR", 0xFC000000#32, 0xB8000000#32⟩,
   ⟨"SDL", 0xFC000000#32, 0xB0000000#32⟩, ⟨"SDR", 0xFC000000#32, 0xB4000000#32⟩]

/-- Rows of `44_alu.md`, first half. -/
def aluRows1 : List OpcodeRow :=
  [⟨"ADD", 0xFC00003F#32, 0x00000020#32⟩, ⟨"ADDU", 0xFC00003F#32, 0x00000021#32⟩,
   ⟨"SUB", 0xFC00003F#32, 0x00000022#32⟩, ⟨"SUBU", 0xFC00003F#32, 0x00000023#32⟩,
   ⟨"ADDI", 0xFC000000#32, 0x20000000#32⟩, ⟨"ADDIU", 0xFC000000#32, 0x24000000#32⟩,
   ⟨"DADD", 0xFC00003F#32, 0x0000002C#32⟩, ⟨"DADDU", 0xFC00003F#32, 0x0000002D#32⟩,
   ⟨"DSUB", 0xFC00003F#32, 0x0000002E#32⟩, ⟨"DSUBU", 0xFC00003F#32, 0x0000002F#32⟩,
   ⟨"DADDI", 0xFC000000#32, 0x60000000#32⟩, ⟨"DADDIU", 0xFC000000#32, 0x64000000#32⟩,
   ⟨"AND", 0xFC00003F#32, 0x00000024#32⟩, ⟨"OR", 0xFC00003F#32, 0x00000025#32⟩,
   ⟨"XOR", 0xFC00003F#32, 0x00000026#32⟩, ⟨"NOR", 0xFC00003F#32, 0x00000027#32⟩,
   ⟨"ANDI", 0xFC000000#32, 0x30000000#32⟩, ⟨"ORI", 0xFC000000#32, 0x34000000#32⟩,
   ⟨"XORI", 0xFC000000#32, 0x38000000#32⟩, ⟨"LUI", 0xFC000000#32, 0x3C000000#32⟩]

/-- Rows of `44_alu.md`, second half. -/
def aluRows2 : List OpcodeRow :=
  [⟨"SLT", 0xFC00003F#32, 0x0000002A#32⟩, ⟨"SLTU", 0xFC00003F#32, 0x0000002B#32⟩,
   ⟨"SLTI", 0xFC000000#32, 0x28000000#32⟩, ⟨"SLTIU", 0xFC000000#32, 0x2C000000#32⟩,
   ⟨"SLL", 0xFC00003F#32, 0x00000000#32⟩, ⟨"SRL", 0xFC00003F#32, 0x00000002#32⟩,
   ⟨"SRA", 0xFC00003F#32, 0x00000003#32⟩, ⟨"SLLV", 0xFC00003F#32, 0x00000004#32⟩,
   ⟨"SRLV", 0xFC00003F#32, 0x00000006#32⟩, ⟨"SRAV", 0xFC00003F#32, 0x00000007#32⟩,
   ⟨"DSLL", 0xFC00003F#32, 0x00000038#32⟩, ⟨"DSRL", 0xFC00003F#32, 0x0000003A#32⟩,
   ⟨"DSRA", 0xFC00003F#32, 0x0000003B#32⟩, ⟨"DSLL32", 0xFC00003F#32, 0x0000003C#32⟩,
   ⟨"DSRL32", 0xFC00003F#32, 0x0000003E#32⟩, ⟨"DSRA32", 0xFC00003F#32, 0x0000003F#32⟩,
   ⟨"DSLLV", 0xFC00003F#32, 0x00000014#32⟩, ⟨"DSRLV", 0xFC00003F#32, 0x00000016#32⟩,
   ⟨"DSRAV", 0xFC00003F#32, 0x00000017#32⟩]

/-- Rows of `45_muldiv.md`. -/
def mulDivRows : List OpcodeRow :=
  [⟨"MULT", 0xFC00003F#32, 0x00000018#32⟩, ⟨"MULTU", 0xFC00003F#32, 0x00000019#32⟩,
   ⟨"MULT1", 0xFC00003F#32, 0x70000018#32⟩, ⟨"MULTU1", 0xFC00003F#32, 0x70000019#32⟩,
   ⟨"DIV", 0xFC00003F#32, 0x0000001A#32⟩, ⟨"DIVU", 0xFC00003F#32, 0x0000001B#32⟩,
   ⟨"DIV1", 0xFC00003F#32, 0x7000001A#32⟩, ⟨"DIVU1", 0xFC00003F#32, 0x7000001B#32⟩,
   ⟨"MFHI", 0xFC00003F#32, 0x00000010#32⟩, ⟨"MFLO", 0xFC00003F#32, 0x00000012#32⟩,
   ⟨"MTHI", 0xFC00003F#32, 0x00000011#32⟩, ⟨"MTLO", 0xFC00003F#32, 0x00000013#32⟩,
   ⟨"MFHI1", 0xFC00003F#32, 0x70000010#32⟩, ⟨"MFLO1", 0xFC00003F#32, 0x70000012#32⟩,
   ⟨"MTHI1", 0xFC00003F#32, 0x70000011#32⟩, ⟨"MTLO1", 0xFC00003F#32, 0x70000013#32⟩]

/-- Rows of `46_move_cond.md`. -/
def moveRows : List OpcodeRow :=
  [⟨"MOVZ", 0xFC00003F#32, 0x0000000A#32⟩, ⟨"MOVN", 0xFC00003F#32, 0x0000000B#32⟩]

/-- Rows of `47_system_cop0.md`. -/
def systemRows : List OpcodeRow :=
  [⟨"SYSCALL", 0xFC00003F#32, 0x0000000C#32⟩, ⟨"BREAK", 0xFC00003F#32, 0x0000000D#32⟩,
   ⟨"MFC0", 0xFFE00000#32, 0x40000000#32⟩, ⟨"MTC0", 0xFFE00000#32, 0x40800000#32⟩,
   ⟨"ERET", 0xFFE0003F#32, 0x42000018#32⟩, ⟨"EI", 0xFFE0003F#32, 0x42000038#32⟩,
   ⟨"DI", 0xFFE0003F#32, 0x42000039#32⟩, ⟨"SYNC", 0xFC00003F#32, 0x0000000F#32⟩,
   ⟨"CACHE", 0xFC000000#32, 0xBC000000#32⟩, ⟨"PREF", 0xFC000000#32, 0xCC000000#32⟩,
   ⟨"TLBR", 0xFFE0003F#32, 0x42000001#32⟩, ⟨"TLBWI", 0xFFE0003F#32, 0x42000002#32⟩,
   ⟨"TLBWR", 0xFFE0003F#32, 0x42000006#32⟩, ⟨"TLBP", 0xFFE0003F#32, 0x42000008#32⟩]

/-- The 113 rows, `NOP` first (R82). -/
def opcodeRows : List OpcodeRow :=
  nopRow ++ branchRows ++ loadStoreRows ++ unalignedRows ++ aluRows1 ++ aluRows2 ++ mulDivRows ++ moveRows ++ systemRows

/-- The row a word is of, the first in the table. -/
def rowOf (w : Word) : Option OpcodeRow := opcodeRows.find? (fun r => w &&& r.mask == r.bits)

end Sys2Proof.Claims

section Statements

open Sys2Proof Sys2Proof.Machine Sys2Proof.Claims

/-! ### Encoding -/

/-- Words that rules of spec/ write out decode to the instruction the rule says they are. A sanity statement. The
encodings are the spec's own, "from general knowledge, not in source" (D2). -/
def Obligations.SpecWordsDecode : Prop :=
  ∀ p ∈ specWords, decode p.1 = .ok p.2

/-- No bit of an operand is dropped: for every well-formed instruction, at every value of its operands (R70 to R82).
The spec's own decisions in it: the encodings (D2). -/
def Obligations.DecodeEncodeRoundTrip : Prop :=
  ∀ i : Instr, i.wf = true → decode (encode i) = .ok i

/-- The decoder and the opcode table agree on every one of the 2^32 words: a word of a row decodes to an instruction
of that row's mnemonic, a word of no row is a decode failure (R74 to R82). The spec's own decisions in it: the
encodings (D2). -/
def Obligations.DecodeAgreesWithOpcodeTable : Prop :=
  ∀ w : Word,
    (∀ r, rowOf w = some r → ∃ i, decode w = .ok i ∧ mnemonic i = r.name) ∧
    (rowOf w = none → ∃ e, decode w = .error e)

/-- "A word with non-zero bits there executes exactly as the same word with those bits zero" (R83): the encoder's word
is the word with exactly those bits cleared, and what it decodes to executes alike in every state. The spec's own
decisions in it: the encodings (D2), which bits are ignored (D32; log 24). -/
def Obligations.IgnoredBitsDoNotMatter : Prop :=
  ∀ (w : Word) (i : Instr), decode w = .ok i →
    encode i = w &&& ~~~ ignoredBits i ∧ ∃ j, decode (encode i) = .ok j ∧ ∀ s, exec j s = exec i s

/-! ### Reset and the other input ports -/

/-- The reset values of `10_state.md` R30, all of them. Those the table grounds on D29 (`x[1..31]`, the pairs, the
branch state, the latches, memory) are the spec's decision, not its source's (log 2, log 3). -/
def Obligations.ResetState : Prop :=
  State.reset.pc = 0xBFC00000#32 ∧ State.reset.branchPc = 0#32 ∧ State.reset.isBranching = false ∧
  State.reset.delaySlot = 0 ∧ State.reset.currentInstruction = 0#32 ∧ State.reset.nextInstruction = 0#32 ∧
  (∀ r, State.reset.reg r = 0#128) ∧
  (State.reset.hi = 0#64 ∧ State.reset.lo = 0#64 ∧ State.reset.hi1 = 0#64 ∧ State.reset.lo1 = 0#64) ∧
  State.reset.slot 15#5 = 0x00002E20#32 ∧ (∀ n, n ≠ 15#5 → State.reset.slot n = 0#32) ∧
  (∀ a, State.reset.mem.read a = 0#8)

/-- The `reset` strobe, in any state, gives every element of R10 its reset value and touches no memory and no port
(R340). The values are those of ResetState, with the same remark on D29. -/
def Obligations.ResetStrobe : Prop :=
  ∀ s, ∃ t, strobe .reset s = .next t ∧
    t.pc = 0xBFC00000#32 ∧ t.branchPc = 0#32 ∧ t.isBranching = false ∧ t.delaySlot = 0 ∧
    t.currentInstruction = 0#32 ∧ t.nextInstruction = 0#32 ∧ (∀ r, t.reg r = 0#128) ∧
    (t.hi = 0#64 ∧ t.lo = 0#64 ∧ t.hi1 = 0#64 ∧ t.lo1 = 0#64) ∧
    t.slot 15#5 = 0x00002E20#32 ∧ (∀ n, n ≠ 15#5 → t.slot n = 0#32) ∧ SameMem s t ∧ SamePorts s t

/-- `set_pc(entry)` after a reset (R345): `pc` set, the branch state cleared, nothing else changed. Clearing the
branch state is the spec's decision D37. -/
def Obligations.SetPc : Prop :=
  ∀ (s : State) (entry : VAddr), s.resetDone = true → ∃ t, strobe (.setPc entry) s = .next t ∧
    t.pc = entry ∧ t.isBranching = false ∧ t.delaySlot = 0 ∧ t.branchPc = s.branchPc ∧
    SameGpr s t ∧ SamePairs s t ∧ SameSlots s t ∧ SameMem s t ∧ SamePorts s t ∧ SameLatches s t

/-- `request_interrupt(line)` after a reset (R312): the pending bit of the line is set and nothing else happens;
another line number is refused (U14). The bit numbers are the parameter `INT_LINES` (log 1). The spec's own decisions
in it: the lines and their bits (D25). -/
def Obligations.RequestInterrupt : Prop :=
  ∀ s : State, s.resetDone = true →
    (∀ p ∈ [(0, 0x00000400#32), (1, 0x00000800#32), (2, 0x00008000#32)],
      ∃ t, strobe (.requestInterrupt p.1) s = .next t ∧ t.cause = s.cause ||| p.2 ∧ SameSlotsBut [13#5] s t ∧
        SamePc s t ∧ SameGpr s t ∧ SamePairs s t ∧ SameMem s t ∧ SamePorts s t ∧ SameLatches s t) ∧
    (∀ line, 2 < line → strobe (.requestInterrupt line) s = .refused .noSuchInterruptLine)

/-- Before the first `reset` the model refuses every other strobe (R349). -/
def Obligations.StrobesBeforeResetRefused : Prop :=
  ∀ s : State, s.resetDone = false →
    strobe .step s = .refused .notReset ∧ (∀ entry, strobe (.setPc entry) s = .refused .notReset) ∧
    (∀ line, strobe (.requestInterrupt line) s = .refused .notReset)

/-! ### The step -/

/-- A step runs the fetched word (R92). If the word decodes: `exec` of its instruction, then the bookkeeping of steps 6
to 8 exactly once; a refusal of `exec` is the step's. If it does not: the step goes on (R80), and the same bookkeeping
follows what DecodeFailureIsReportedNoOp says of the word. The spec's own decisions in it: the order of the bookkeeping
(D38), the numbers in the entry (D22, D23). -/
def Obligations.StepRunsDecodedInstruction : Prop :=
  ∀ s : State, s.resetDone = true → s.pc.toNat % 4 = 0 →
    (∀ i, decode s.fetch.1 = .ok i →
      (∀ u, exec i s.fetch.2 = .next u → ∃ t, step s = .next t ∧ AfterBookkeeping u t) ∧
      (∀ r, exec i s.fetch.2 = .refused r → step s = .refused r)) ∧
    (∀ e, decode s.fetch.1 = .error e →
      ∃ u t, executeWord s.fetch.1 s.fetch.2 = .next u ∧ step s = .next t ∧ AfterBookkeeping u t)

/-- Fetch (R91): the word read through the Bus Router at `pc`, latched, nothing else changed but what the read does on
the ports. What `MemRead` itself does is R41, R52, R54, with the spec's own decisions on the byte order (D3) and the map
(D18; log 1). The model's own: which lines a peripheral asserts while it is read (log 10), and that `next_instruction`
is left open (R17; log 6). -/
def Obligations.FetchReadsTheWordAtPc : Prop :=
  ∀ s : State, ReadsBus s s.fetch.2 .word 4 s.pc s.fetch.1.toNat ∧
    s.fetch.2.currentInstruction = s.fetch.1 ∧ SamePc s s.fetch.2 ∧ SameGpr s s.fetch.2 ∧ SamePairs s s.fetch.2 ∧
    SameSlotsBut [13#5] s s.fetch.2 ∧ SameMem s s.fetch.2 ∧ s.fetch.2.resetDone = s.resetDone

/-- An instruction placed at the fetch address is the one the next step runs (log 4), in every state whose memory is
in canonical form. -/
def Obligations.PlacedInstructionRunsNext : Prop :=
  ∀ (s : State) (i : Instr), s.mem.wf → i.wf = true →
    decodeTableWord 32 (encode i).toNat = some i ∧
    (s.withFetchWord 32 (encode i).toNat).fetch.1 = encode i ∧
    step (s.withFetchWord 32 (encode i).toNat) =
      bookkeepingAfter (exec i (s.withFetchWord 32 (encode i).toNat).fetch.2)

/-- A step that starts with `pc[1:0] != 0` is refused (R93, U3; log 15). The spec's own decisions in it: the refusal
(D9). -/
def Obligations.MisalignedPcRefused : Prop :=
  ∀ s : State, s.resetDone = true → s.pc.toNat % 4 ≠ 0 → step s = .refused .misalignedPc

/-- A decode failure is reported with its `pc` and word and is otherwise a no-op with outcome Next (R80, log 13). -/
def Obligations.DecodeFailureIsReportedNoOp : Prop :=
  ∀ (w : Word) (e : DecodeError) (s : State), decode w = .error e → ∃ t, executeWord w s = .next t ∧ NextPc s t ∧
    t.events = .decodeFailure s.pc w :: s.events ∧ t.freeIndex = s.freeIndex ∧
    SameGpr s t ∧ SamePairs s t ∧ SameSlots s t ∧ SameMem s t ∧ SameLatches s t

/-- Interrupt admission (R313, R314): delivered exactly when the global conditions hold and a pending line is not
masked; then `Raise(Int, is_branching)` and Normal; `Cause.IP`, `IE`, `EIE` and the masks keep their values. The
spec's own decisions in it: the lines and the mask term (D25), bit places (D22), the vector offset (D23), the dropped
branch (D6, D7). -/
def Obligations.InterruptAdmission : Prop :=
  ∀ u : State,
    (InterruptCondition u →
      u.admission.pc = (if u.status.getLsbD 22 then 0xBFC00400#32 else 0x80000200#32) ∧
      u.admission.epc = (if u.isBranching then u.pc - 4#32 else u.pc) ∧
      u.admission.cause.getLsbD 31 = u.isBranching ∧ u.admission.cause.extractLsb' 2 5 = 0#5 ∧
      (∀ b, b < 2 ∨ (7 ≤ b ∧ b < 31) → u.admission.cause.getLsbD b = u.cause.getLsbD b) ∧
      u.admission.status = u.status ||| 0x00000002#32 ∧ u.admission.isBranching = false ∧ u.admission.delaySlot = 0 ∧
      SameSlotsBut [12#5, 13#5, 14#5] u u.admission ∧ SameGpr u u.admission ∧ SamePairs u u.admission ∧ SameMem u u.admission ∧
      SamePorts u u.admission ∧ SameLatches u u.admission) ∧
    (¬ InterruptCondition u → u.admission = u)

/-- `Count` gains exactly 1 in every step, whatever the instruction and its outcome; after `MTC0` to it, from the
value written (R325). The spec's own decisions in it: the rate (D30). -/
def Obligations.CountAdvancesOncePerStep : Prop :=
  ∀ s t : State, step s = .next t →
    (∀ rt, decode s.fetch.1 = .ok (.mtc0 rt 9#5) → t.slot 9#5 = (s.reg rt).setWidth 32 + 1#32) ∧
    ((∀ rt, decode s.fetch.1 ≠ .ok (.mtc0 rt 9#5)) → t.slot 9#5 = s.slot 9#5 + 1#32)

/-! ### Invariants -/

/-- The invariant holds at reset. -/
def Obligations.InvariantHoldsAtReset : Prop := State.reset.Inv

/-- Every step keeps the invariant: memory in canonical form inside the four arrays, the storage of `x[0]` zero (R12),
`delay_slot` and `is_branching` consistent (R16, R27). The spec's own decisions in it: the form of the memory is the
model's (log 3). -/
def Obligations.StepKeepsInvariant : Prop :=
  ∀ s t : State, s.Inv → step s = .next t → t.Inv

/-- So does every other move of the block's input ports and its environment (R5, R28, R312, R340, R345). The spec's
own decisions in it: the moves are the model's reading of R4 and R5 (D33, D41; log 18). -/
def Obligations.PortsKeepInvariant : Prop :=
  ∀ (p : Strobe) (s t : State), s.Inv → p ≠ .step → strobe p s = .next t → t.Inv

/-- "Boot ROM never changes after launch" (R28, R49), by whatever move. The spec's own decisions in it: that a store
to ROM is dropped (D19). -/
def Obligations.BootRomNeverChanges : Prop :=
  ∀ (p : Strobe) (s t : State), strobe p s = .next t →
    ∀ o, o < 0x00400000 → t.mem.read (0x1FC00000 + o) = s.mem.read (0x1FC00000 + o)

/-- Where `pc` goes in a step (R15), and the delay slot's order (R100): from BranchPending to the target or to an
exception entry, in Normal; into BranchPending only by a jump or branch, at `pc + 4`; otherwise `pc + 4`, `pc + 8`
after a likely branch, an entry point, or `EPC`/`ErrorEPC` after `ERET`. The spec's own decisions in it: that an
exception drops the branch (D6), where `ERET` goes (D27), the entry points (D23). -/
def Obligations.PcAfterStep : Prop :=
  ∀ s t : State, step s = .next t →
    (s.isBranching = true → t.isBranching = false ∧ t.delaySlot = 0 ∧ (t.pc = s.branchPc ∨ isEntryPoint t.pc)) ∧
    (s.isBranching = false → t.isBranching = true →
      t.delaySlot = 1 ∧ t.pc = s.pc + 4#32 ∧ ∃ i, decode s.fetch.1 = .ok i ∧ isJumpOrBranch i = true) ∧
    (s.isBranching = false → t.isBranching = false →
      t.pc = s.pc + 4#32 ∨ isEntryPoint t.pc ∨
      (t.pc = s.pc + 8#32 ∧ ∃ i, decode s.fetch.1 = .ok i ∧ isLikely i = true) ∨
      (decode s.fetch.1 = .ok .eret ∧ (t.pc = s.slot 14#5 ∨ t.pc = s.slot 30#5)))

/-- "While `status.EXL` is set, a new level-1 exception must not overwrite `EPC`/`cause.BD`" (R27 item 2): no step
whose instruction is neither `ERET` nor `MTC0` changes them while `EXL` is set, and `EXL` stays set. The spec's own
decisions in it: bit places (D22). -/
def Obligations.ExceptionLevelKeepsEPC : Prop :=
  ∀ s t : State, step s = .next t → s.status.getLsbD 1 = true → decode s.fetch.1 ≠ .ok .eret →
    (∀ rt n, decode s.fetch.1 ≠ .ok (.mtc0 rt n)) →
    t.epc = s.epc ∧ t.cause.getLsbD 31 = s.cause.getLsbD 31 ∧ t.status.getLsbD 1 = true

/-- Who writes which bit of `Status` (R21): all but `EXL`, `ERL`, `EIE` only `MTC0`; `ERL` is set by `MTC0` only and
cleared by `ERET` or `MTC0`; `EIE` is set by `EI` and cleared by `DI`; `EXL` is cleared by `ERET`, and set on the way
to an exception entry. The spec's own decisions in it: bit places (D22), `ERET`, `EI`, `DI` (D27), that `KSU` is kept
(D26; log 20). -/
def Obligations.StatusChangesOnlyByItsWriters : Prop :=
  ∀ s t : State, step s = .next t → (∀ rt, decode s.fetch.1 ≠ .ok (.mtc0 rt 12#5)) →
    (∀ b, b ≠ 1 → b ≠ 2 → b ≠ 16 → t.status.getLsbD b = s.status.getLsbD b) ∧
    (t.status.getLsbD 2 = true → s.status.getLsbD 2 = true) ∧
    (decode s.fetch.1 ≠ .ok .eret → t.status.getLsbD 2 = s.status.getLsbD 2) ∧
    (decode s.fetch.1 ≠ .ok .ei → t.status.getLsbD 16 = true → s.status.getLsbD 16 = true) ∧
    (decode s.fetch.1 ≠ .ok .di → s.status.getLsbD 16 = true → t.status.getLsbD 16 = true) ∧
    (decode s.fetch.1 ≠ .ok .eret → s.status.getLsbD 1 = true → t.status.getLsbD 1 = true) ∧
    (s.status.getLsbD 1 = false → t.status.getLsbD 1 = true → isEntryPoint t.pc)

/-- Who writes the other control slots (R20 to R23, R26, R312), `MTC0` to the slot set aside: none but the slots 8, 9,
12, 13, 14; of `Cause` the exception code, `BD` and the pending bits, which are never cleared; `EPC` and `BadVAddr`
only on the way to an exception entry. The spec's own decisions in it: slot numbers and bit places (D22), the latches
(D25), `BadVAddr` (D24; log 8). -/
def Obligations.SlotsChangeOnlyByTheirWriters : Prop :=
  ∀ (s t : State) (n : Reg), step s = .next t → (∀ rt, decode s.fetch.1 ≠ .ok (.mtc0 rt n)) →
    (n ∉ [8#5, 9#5, 12#5, 13#5, 14#5] → t.slot n = s.slot n) ∧
    (n = 13#5 →
      (∀ b, b < 2 ∨ b = 7 ∨ b = 8 ∨ b = 9 ∨ (12 ≤ b ∧ b < 15) ∨ (16 ≤ b ∧ b < 31) →
        t.cause.getLsbD b = s.cause.getLsbD b) ∧
      (∀ b, b = 10 ∨ b = 11 ∨ b = 15 → s.cause.getLsbD b = true → t.cause.getLsbD b = true)) ∧
    (n = 14#5 ∨ n = 8#5 → t.slot n ≠ s.slot n → isEntryPoint t.pc)

/-- The two multiply/divide pairs are independent and nothing else writes them (R18). The spec's own decisions in it:
the encodings (D2). -/
def Obligations.PairsChangeOnlyByTheirUnit : Prop :=
  ∀ s t : State, step s = .next t →
    ((∀ i, decode s.fetch.1 = .ok i → writesPair i = false) → t.hi = s.hi ∧ t.lo = s.lo) ∧
    ((∀ i, decode s.fetch.1 = .ok i → writesPair1 i = false) → t.hi1 = s.hi1 ∧ t.lo1 = s.lo1)

/-- `LQ` "is the only instruction that writes `x[rt][127:64]`" (R148; that narrower writes keep it is D12). -/
def Obligations.UpperHalvesChangeOnlyByLQ : Prop :=
  ∀ (s t : State) (r : Reg), step s = .next t → (∀ base offset, decode s.fetch.1 ≠ .ok (.lq r base offset)) →
    (t.reg r).extractLsb' 64 64 = (s.reg r).extractLsb' 64 64

/-- A step changes no general register but the destination of its instruction (R12, R13, R31), and `x[0]` reads as
zero. The spec's own decisions in it: the copy to `rd` (D21), which instructions link (D11). -/
def Obligations.RegistersChangeOnlyAsDestination : Prop :=
  ∀ (s t : State) (r : Reg), step s = .next t → (∀ i, decode s.fetch.1 = .ok i → destination i ≠ some r) →
    t.reg r = s.reg r

/-- Register 0 (R12): it reads as 128 zero bits in every state, a write whose destination is 0 is discarded at any
width, and no step leaves a non-zero value in its storage, whatever the storage held before. -/
def Obligations.RegisterZeroIsHardWired : Prop :=
  (∀ s : State, s.reg 0#5 = 0#128) ∧
  (∀ (s : State) (q : QWord) (v : DWord) (w : Word),
    s.setReg 0#5 q = s ∧ s.setLow 0#5 v = s ∧ s.setWord 0#5 w = s) ∧
  (∀ s t : State, step s = .next t → t.gpr[0] = 0#128)

/-- A step changes memory only if its instruction stores, and then only bytes of the array its address routes to,
within the aligned block of 16 bytes around that address (R31, R42, R49, R54). The spec's own decisions in it: that a
store to ROM is dropped (D19), the cells (log 3). -/
def Obligations.MemoryChangesOnlyByStores : Prop :=
  ∀ (s t : State) (a : Nat), step s = .next t → t.mem.read a ≠ s.mem.read a →
    ∃ i ea r o, decode s.fetch.1 = .ok i ∧ storeAddress s i = some ea ∧ route ea = .array r o ∧ r ≠ .bootRom ∧
      a / 16 = cellOf r o / 16

/-- What went out on the ports stays recorded, and one step adds at most three events: its fetch's, and two accesses'
or a decode failure's (R103; the record is the model's own, log 11). -/
def Obligations.PortsOnlyGrow : Prop :=
  ∀ s t : State, step s = .next t → ∃ new, t.events = new ++ s.events ∧ new.length ≤ 3

/-- The mode changes one thing only, the condition of `EI` and `DI` (R321): any other instruction, those that read or
write `Status` whole set aside, does the same with another `KSU`, which it neither reads nor touches. The spec's own
decisions in it: that no instruction is privileged (D26). -/
def Obligations.ModeDoesNotMatter : Prop :=
  ∀ (i : Instr) (s : State) (k : BitVec 2), i ≠ .ei → i ≠ .di → (∀ rt, i ≠ .mfc0 rt 12#5) →
    (∀ rt, i ≠ .mtc0 rt 12#5) → exec i (withKSU k s) = mapNext (withKSU k) (exec i s)

/-! ### Exceptions -/

/-- Taking an exception (R300 to R303, R309, R310, with the controller's part, R99): for every code, in every state.
The spec's own decisions in it: bit places (D22), codes and offsets (D23; log 22), the delay slot (D6, D7). -/
def Obligations.TakingAnException : Prop :=
  ∀ p ∈ exceptionRows, ∀ s : State, EntersException s (s.takeException p.1) p.2.1 p.2.2 ∧
    (s.takeException p.1).slot 8#5 = s.slot 8#5 ∧ SamePorts s (s.takeException p.1)

/-- `SYSCALL` and `BREAK` (R283, R284): the exception is their whole effect, whatever the code field. The spec's own
decisions in it: the encodings (D2), bit places (D22), codes (D23), the delay slot (D6, D7). -/
def Obligations.SoftwareExceptions : Prop :=
  ∀ (w : Word) (s : State), opField w = 0x00#6 →
    (functField w = 0x0C#6 → decode w = .ok (.syscall (codeField w)) ∧
      ∃ t, exec (.syscall (codeField w)) s = .next t ∧ EntersException s t 8#5 0x180#32 ∧ t.slot 8#5 = s.slot 8#5 ∧
        SamePorts s t) ∧
    (functField w = 0x0D#6 → decode w = .ok (.breakpoint (codeField w)) ∧
      ∃ t, exec (.breakpoint (codeField w)) s = .next t ∧ EntersException s t 9#5 0x180#32 ∧
        t.slot 8#5 = s.slot 8#5 ∧ SamePorts s t)

/-- A misaligned halfword, word, doubleword or quadword access raises the address error before any access is issued
(R56, R140, R154): no register, no memory, no port changes. `BadVAddr` is left open (R306, log 8). The spec's own
decisions in it: the encodings (D2), the address (D14), bit places and codes (D22, D23). -/
def Obligations.AddressErrors : Prop :=
  ∀ row ∈ alignmentRows, ∀ (w : Word) (s : State), opField w = row.op → (accessAddress s w).toNat % row.bytes ≠ 0 →
    decode w = .ok (accessInstr row.instr w) ∧
    ∃ t, exec (accessInstr row.instr w) s = .next t ∧ EntersException s t row.code 0x180#32 ∧ t.events = s.events

/-! ### Jumps and branches -/

/-- `J`, `JAL`, `JR`, `JALR` outside a delay slot (R112 to R115). The spec's own decisions in it: the encodings (D2),
the targets (D10), the zero-extended link (D11; log 23), bits 127:64 kept (D12). -/
def Obligations.Jumps : Prop :=
  ∀ (w : Word) (s : State), s.isBranching = false →
    (opField w = 0x02#6 → decode w = .ok (.j (indexField w)) ∧
      CompletesTaken (.j (indexField w)) s (jumpGoal s w) none) ∧
    (opField w = 0x03#6 → decode w = .ok (.jal (indexField w)) ∧
      CompletesTaken (.jal (indexField w)) s (jumpGoal s w) (some 31#5)) ∧
    (selects 0x00#6 0x08#6 w → decode w = .ok (.jr (rsField w)) ∧
      CompletesTaken (.jr (rsField w)) s ((s.reg (rsField w)).setWidth 32) none) ∧
    (selects 0x00#6 0x09#6 w → decode w = .ok (.jalr (rdField w) (rsField w)) ∧
      CompletesTaken (.jalr (rdField w) (rsField w)) s ((s.reg (rsField w)).setWidth 32) (some (rdField w)))

/-- The ordinary conditional branches outside a delay slot (R116 to R121). The spec's own decisions in it: the
encodings (D2), the target (D10). -/
def Obligations.OrdinaryBranches : Prop :=
  ∀ row ∈ ordinaryBranches, ∀ (w : Word) (s : State), row.selects w = true → s.isBranching = false →
    decode w = .ok (row.instr w) ∧
    (row.condition s w → CompletesTaken (row.instr w) s (branchGoal s w) none) ∧
    (¬ row.condition s w → CompletesWithNothing (row.instr w) s)

/-- The likely branches outside a delay slot: not taken, `pc + 8` (R122 to R127). The spec's own decisions in it: the
encodings (D2), the target (D10). -/
def Obligations.LikelyBranches : Prop :=
  ∀ row ∈ likelyBranches, ∀ (w : Word) (s : State), row.selects w = true → s.isBranching = false →
    decode w = .ok (row.instr w) ∧
    (row.condition s w → CompletesTaken (row.instr w) s (branchGoal s w) none) ∧
    (¬ row.condition s w → CompletesSkip (row.instr w) s none)

/-- The branch-and-link instructions outside a delay slot: the link is written whether or not the branch is taken, and
the condition is that of the old register (R128 to R131). The spec's own decisions in it: the encodings (D2), the
target (D10), the link (D11, C8; log 23), bits 127:64 kept (D12). -/
def Obligations.BranchAndLink : Prop :=
  (∀ row ∈ ordinaryLinkBranches, ∀ (w : Word) (s : State), row.selects w = true → s.isBranching = false →
    decode w = .ok (row.instr w) ∧
    (row.condition s w → CompletesTaken (row.instr w) s (branchGoal s w) (some 31#5)) ∧
    (¬ row.condition s w → CompletesWithLow (row.instr w) s 31#5 (linkAddress s))) ∧
  (∀ row ∈ likelyLinkBranches, ∀ (w : Word) (s : State), row.selects w = true → s.isBranching = false →
    decode w = .ok (row.instr w) ∧
    (row.condition s w → CompletesTaken (row.instr w) s (branchGoal s w) (some 31#5)) ∧
    (¬ row.condition s w → CompletesSkip (row.instr w) s (some 31#5)))

/-- A control transfer in a delay slot (R98, U2; log 16): a jump, a link-writing branch, `ERET`, a likely branch and a
taken branch are refused; a not-taken ordinary branch completes as Next. The spec's own decisions in it: the refusal
(D8). -/
def Obligations.ControlTransferInDelaySlotRefused : Prop :=
  ∀ s : State, s.isBranching = true →
    (∀ i, neverInDelaySlot i = true → exec i s = .refused .controlTransferInDelaySlot) ∧
    (∀ row ∈ likelyBranches, ∀ w, row.selects w = true →
      exec (row.instr w) s = .refused .controlTransferInDelaySlot) ∧
    (∀ row ∈ ordinaryBranches, ∀ w, row.selects w = true →
      (row.condition s w → exec (row.instr w) s = .refused .controlTransferInDelaySlot) ∧
      (¬ row.condition s w → CompletesWithNothing (row.instr w) s))

/-! ### Loads and stores -/

/-- The aligned loads but `LQ` (R141 to R147): the value read at the effective address, extended, is written to
`x[rt][63:0]`; for `rt = 0` the access happens and the value is discarded. The spec's own decisions in it: the
encodings (D2), the byte order (D3), bits 127:64 kept (D12), the address (D14). -/
def Obligations.AlignedLoads : Prop :=
  ∀ row ∈ alignedLoads, ∀ (w : Word) (s : State), opField w = row.op → (accessAddress s w).toNat % row.bytes = 0 →
    decode w = .ok (accessInstr row.instr w) ∧
    ∃ t v, exec (accessInstr row.instr w) s = .next t ∧
      ReadsBus s t row.width row.bytes (accessAddress s w) v ∧ WroteLow (rtField w) (row.extend v) s t ∧
      AccessFrame s t ∧ SameMem s t

/-- `LQ` (R148): all 128 bits of the register. The spec's own decisions in it: the encodings (D2), the byte order
(D3), the address (D14), the two peripheral reads (D17; log 21). -/
def Obligations.LoadQuadword : Prop :=
  ∀ (w : Word) (s : State), opField w = 0x1E#6 → (accessAddress s w).toNat % 16 = 0 →
    decode w = .ok (accessInstr .lq w) ∧
    ∃ t v, exec (accessInstr .lq w) s = .next t ∧ ReadsBus s t .quad 16 (accessAddress s w) v ∧
      (rtField w ≠ 0#5 → t.reg (rtField w) = BitVec.ofNat 128 v) ∧ t.reg 0#5 = 0#128 ∧
      (∀ r, r ≠ rtField w → t.reg r = s.reg r) ∧ AccessFrame s t ∧ SameMem s t

/-- The aligned stores (R149 to R153): the low bytes of `x[rt]` go to the effective address and no other byte changes.
The memory is in canonical form, which StepKeepsInvariant says of every state a run reaches. The spec's own decisions
in it: the encodings (D2), the byte order (D3), the address (D14), the two peripheral writes (D17; log 21), stores to
ROM (D19). -/
def Obligations.AlignedStores : Prop :=
  ∀ row ∈ alignedStores, ∀ (w : Word) (s : State), s.mem.wf → opField w = row.op →
    (accessAddress s w).toNat % row.bytes = 0 →
    decode w = .ok (accessInstr row.instr w) ∧
    ∃ t, exec (accessInstr row.instr w) s = .next t ∧
      WritesBus s t row.width row.bytes (accessAddress s w) (s.reg (rtField w)).toNat ∧ AccessFrame s t ∧ SameGpr s t

/-- The left/right loads, byte by byte (R160 to R164), at every address. Bits 63:32 of a word form are the sign of the
merged word, as R160 and D15 say (log 19). The spec's own decisions in it: the encodings (D2), the byte order (D3),
bits 127:64 kept (D12), the merge (D15). -/
def Obligations.UnalignedLoads : Prop :=
  ∀ row ∈ mergeLoads, ∀ (w : Word) (s : State), opField w = row.op →
    decode w = .ok (accessInstr row.instr w) ∧
    ∃ t m v, exec (accessInstr row.instr w) s = .next t ∧
      ReadsBus s t row.width row.bytes (unitAddress s w row.bytes) m ∧ v < 2 ^ (8 * row.bytes) ∧
      (∀ j, j < row.bytes → byteOf v j =
        mergedByte (row.source (unitOffset s w row.bytes) j) m (s.reg (rtField w)).toNat j) ∧
      WroteLow (rtField w) (row.extend v) s t ∧ AccessFrame s t ∧ SameMem s t

/-- The left/right stores, byte by byte (R160, R165 to R168), at every address: one read of the aligned unit, the
merge, one write of the whole unit. `mid` is the state after the read. The spec's own decisions in it: the encodings
(D2), the byte order (D3), the read and write of a whole unit (D16), stores to ROM (D19). -/
def Obligations.UnalignedStores : Prop :=
  ∀ row ∈ mergeStores, ∀ (w : Word) (s : State), s.mem.wf → opField w = row.op →
    decode w = .ok (accessInstr row.instr w) ∧
    ∃ t mid m v, exec (accessInstr row.instr w) s = .next t ∧
      ReadsBus s mid row.width row.bytes (unitAddress s w row.bytes) m ∧ mid.mem = s.mem ∧ v < 2 ^ (8 * row.bytes) ∧
      (∀ q, q < row.bytes → byteOf v q =
        mergedByte (row.source (unitOffset s w row.bytes) q) (s.reg (rtField w)).toNat m q) ∧
      WritesBus mid t row.width row.bytes (unitAddress s w row.bytes) v ∧ AccessFrame s t ∧ SameGpr s t

/-- The idiom for unaligned loads (R169), in either order: the word or doubleword whose first byte is at `p`, when all
of it lies in one byte array, whatever the register held. The spec's own decisions in it: the merge (D15), and the
rule itself is derived from R161 to R164. -/
def Obligations.UnalignedIdiom : Prop :=
  ∀ (s : State) (d base : Reg) (first last : BitVec 16) (r : Region) (o : Nat), d ≠ 0#5 → d ≠ base →
    route (s.effectiveAddress base first) = .array r o →
    (s.effectiveAddress base last = s.effectiveAddress base first + 3#32 →
      route (s.effectiveAddress base last) = .array r (o + 3) →
      PairLoads (.lwr d base first) (.lwl d base last) s d
        ((BitVec.ofNat 32 (leValue s.mem (cellOf r o) 4)).signExtend 64) ∧
      PairLoads (.lwl d base last) (.lwr d base first) s d
        ((BitVec.ofNat 32 (leValue s.mem (cellOf r o) 4)).signExtend 64)) ∧
    (s.effectiveAddress base last = s.effectiveAddress base first + 7#32 →
      route (s.effectiveAddress base last) = .array r (o + 7) →
      PairLoads (.ldr d base first) (.ldl d base last) s d (BitVec.ofNat 64 (leValue s.mem (cellOf r o) 8)) ∧
      PairLoads (.ldl d base last) (.ldr d base first) s d (BitVec.ofNat 64 (leValue s.mem (cellOf r o) 8)))

/-! ### Arithmetic, logical, compare, shift -/

/-- `ADD`, `ADDU`, `SUB`, `SUBU`, `ADDI`, `ADDIU` (R181 to R186): the low words, wrapping, the result sign-extended.
The spec's own decisions in it: the encodings (D2), bits 127:64 kept (D12), bits 63:32 of a source ignored (D13), no
overflow trap (D42). -/
def Obligations.WordArithmetic : Prop :=
  (∀ e ∈ wordThreeReg, ThreeRegRule e) ∧ (∀ e ∈ wordImmediate, ImmediateRule e)

/-- `DADD` to `DADDIU` (R187 to R192): 64 bits, wrapping. The spec's own decisions in it: the encodings (D2), bits
127:64 kept (D12), no overflow trap (D42). -/
def Obligations.DoubleArithmetic : Prop :=
  (∀ e ∈ doubleThreeReg, ThreeRegRule e) ∧ (∀ e ∈ doubleImmediate, ImmediateRule e)

/-- `AND` to `XORI` (R193 to R199), where the immediate is zero-extended, and `LUI` (R200): 64 bits. The spec's own
decisions in it: the encodings (D2), bits 127:64 kept (D12). -/
def Obligations.LogicalOperations : Prop :=
  (∀ e ∈ logicalThreeReg, ThreeRegRule e) ∧ (∀ e ∈ logicalImmediate, ImmediateRule e) ∧
  (∀ (w : Word) (s : State), opField w = 0x0F#6 → decode w = .ok (.lui (rtField w) (immField w)) ∧
    CompletesWithLow (.lui (rtField w) (immField w)) s (rtField w)
      ((BitVec.ofNat 32 ((immField w).toNat * 65536)).signExtend 64))

/-- `SLT`, `SLTU`, `SLTI`, `SLTIU` (R201 to R204). The spec's own decisions in it: the encodings (D2), bits 127:64
kept (D12). -/
def Obligations.SetOnLessThan : Prop :=
  (∀ e ∈ setLessThreeReg, ThreeRegRule e) ∧ (∀ e ∈ setLessImmediate, ImmediateRule e)

/-- The word shifts (R205 to R210). The spec's own decisions in it: the encodings (D2), bits 127:64 kept (D12), bits
63:32 of a source ignored (D13). -/
def Obligations.WordShifts : Prop :=
  (∀ e ∈ wordShifts, ImmediateShiftRule e) ∧ (∀ e ∈ wordVariableShifts, VariableShiftRule e)

/-- The doubleword shifts (R211 to R219). The spec's own decisions in it: the encodings (D2), bits 127:64 kept (D12).
-/
def Obligations.DoubleShifts : Prop :=
  (∀ e ∈ doubleShifts, ImmediateShiftRule e) ∧ (∀ e ∈ doubleVariableShifts, VariableShiftRule e)

/-! ### Multiply, divide, moves -/

/-- `MULT`, `MULTU`, `MULT1`, `MULTU1` (R242, R243, R246, R247): the exact product, the halves sign-extended, the copy
to `rd`. The spec's own decisions in it: the encodings (D2), bits 127:64 kept (D12), bits 63:32 of a source ignored
(D13), the copy to `rd` (D21). -/
def Obligations.Multiply : Prop :=
  MultiplyRule .mult ⟨0x00#6, 0x18#6, false⟩ (fun a b => a.toInt * b.toInt) ∧
  MultiplyRule .multu ⟨0x00#6, 0x19#6, false⟩ (fun a b => (a.toNat : Int) * b.toNat) ∧
  MultiplyRule .mult1 ⟨0x1C#6, 0x18#6, true⟩ (fun a b => a.toInt * b.toInt) ∧
  MultiplyRule .multu1 ⟨0x1C#6, 0x19#6, true⟩ (fun a b => (a.toNat : Int) * b.toNat)

/-- `DIV`, `DIVU`, `DIV1`, `DIVU1` (R244, R245, R248, R249), the corners included: there the pair is `DIV0` of the
operands, whatever that is (R241, log 7). The spec's own decisions in it: the encodings (D2), bits 63:32 of a source
ignored (D13), the corners (D20). -/
def Obligations.Divide : Prop :=
  DivideRule .div ⟨0x00#6, 0x1A#6, false⟩ .signed
    (fun n d => d.toInt = 0 ∨ (n.toInt = -2147483648 ∧ d.toInt = -1)) BitVec.toInt Int.tdiv ∧
  DivideRule .divu ⟨0x00#6, 0x1B#6, false⟩ .unsigned (fun _ d => d.toNat = 0) (fun v => v.toNat) Int.tdiv ∧
  DivideRule .div1 ⟨0x1C#6, 0x1A#6, true⟩ .signed
    (fun n d => d.toInt = 0 ∨ (n.toInt = -2147483648 ∧ d.toInt = -1)) BitVec.toInt Int.tdiv ∧
  DivideRule .divu1 ⟨0x1C#6, 0x1B#6, true⟩ .unsigned (fun _ d => d.toNat = 0) (fun v => v.toNat) Int.tdiv

/-- The moves from and to `HI`, `LO`, `HI1`, `LO1` (R250 to R257). The spec's own decisions in it: the encodings (D2),
bits 127:64 kept (D12). -/
def Obligations.PairMoves : Prop :=
  ∀ (w : Word) (s : State),
    (selects 0x00#6 0x10#6 w → decode w = .ok (.mfhi (rdField w)) ∧
      CompletesWithLow (.mfhi (rdField w)) s (rdField w) s.hi) ∧
    (selects 0x00#6 0x12#6 w → decode w = .ok (.mflo (rdField w)) ∧
      CompletesWithLow (.mflo (rdField w)) s (rdField w) s.lo) ∧
    (selects 0x1C#6 0x10#6 w → decode w = .ok (.mfhi1 (rdField w)) ∧
      CompletesWithLow (.mfhi1 (rdField w)) s (rdField w) s.hi1) ∧
    (selects 0x1C#6 0x12#6 w → decode w = .ok (.mflo1 (rdField w)) ∧
      CompletesWithLow (.mflo1 (rdField w)) s (rdField w) s.lo1) ∧
    (selects 0x00#6 0x11#6 w → decode w = .ok (.mthi (rsField w)) ∧
      CompletesWithPairs (.mthi (rsField w)) s ((s.reg (rsField w)).setWidth 64) s.lo s.hi1 s.lo1) ∧
    (selects 0x00#6 0x13#6 w → decode w = .ok (.mtlo (rsField w)) ∧
      CompletesWithPairs (.mtlo (rsField w)) s s.hi ((s.reg (rsField w)).setWidth 64) s.hi1 s.lo1) ∧
    (selects 0x1C#6 0x11#6 w → decode w = .ok (.mthi1 (rsField w)) ∧
      CompletesWithPairs (.mthi1 (rsField w)) s s.hi s.lo ((s.reg (rsField w)).setWidth 64) s.lo1) ∧
    (selects 0x1C#6 0x13#6 w → decode w = .ok (.mtlo1 (rsField w)) ∧
      CompletesWithPairs (.mtlo1 (rsField w)) s s.hi s.lo s.hi1 ((s.reg (rsField w)).setWidth 64))

/-- `MOVZ` and `MOVN` (R271, R272): the test is of all 64 bits; a failed condition writes nothing. The spec's own
decisions in it: the encodings (D2), bits 127:64 kept (D12). -/
def Obligations.ConditionalMoves : Prop :=
  ∀ (w : Word) (s : State),
    (selects 0x00#6 0x0A#6 w → decode w = .ok (.movz (rdField w) (rsField w) (rtField w)) ∧
      ((s.reg (rtField w)).setWidth 64 = 0#64 → CompletesWithLow (.movz (rdField w) (rsField w) (rtField w)) s
        (rdField w) ((s.reg (rsField w)).setWidth 64)) ∧
      ((s.reg (rtField w)).setWidth 64 ≠ 0#64 →
        CompletesWithNothing (.movz (rdField w) (rsField w) (rtField w)) s)) ∧
    (selects 0x00#6 0x0B#6 w → decode w = .ok (.movn (rdField w) (rsField w) (rtField w)) ∧
      ((s.reg (rtField w)).setWidth 64 ≠ 0#64 → CompletesWithLow (.movn (rdField w) (rsField w) (rtField w)) s
        (rdField w) ((s.reg (rsField w)).setWidth 64)) ∧
      ((s.reg (rtField w)).setWidth 64 = 0#64 →
        CompletesWithNothing (.movn (rdField w) (rsField w) (rtField w)) s))

/-! ### System -/

/-- `NOP`, `SYNC`, `CACHE`, `PREF` and the TLB instructions have no effect but the choice of the next `pc` (R288 to
R295). The spec's own decisions in it: the encodings (D2), that they have no effect (D28). -/
def Obligations.NoEffectInstructions : Prop :=
  ∀ p ∈ noEffectWords, ∀ (w : Word) (s : State), p.1 w = true →
    decode w = .ok (p.2 w) ∧ CompletesWithNothing (p.2 w) s

/-- `MFC0` and `MTC0` (R281, R282), for every slot and in every mode. The spec's own decisions in it: the encodings
(D2), bits 127:64 kept (D12), the data path (D31), that no mode is needed (D26). -/
def Obligations.PrivilegedMoves : Prop :=
  ∀ (w : Word) (s : State), opField w = 0x10#6 →
    (rsField w = 0x00#5 → decode w = .ok (.mfc0 (rtField w) (rdField w)) ∧
      CompletesWithLow (.mfc0 (rtField w) (rdField w)) s (rtField w) ((s.slot (rdField w)).signExtend 64)) ∧
    (rsField w = 0x04#5 → decode w = .ok (.mtc0 (rtField w) (rdField w)) ∧
      CompletesWithSlot (.mtc0 (rtField w) (rdField w)) s (rdField w) ((s.reg (rtField w)).setWidth 32))

/-- `ERET` outside a delay slot (R285). The spec's own decisions in it: the encodings and what `ERET` does (D2, D27),
slot numbers (D22). -/
def Obligations.ExceptionReturn : Prop :=
  ∀ (w : Word) (s : State), cop0Co 0x18#6 w = true → s.isBranching = false → decode w = .ok .eret ∧
    ∃ t, exec .eret s = .next t ∧
      (s.status.getLsbD 2 = true → t.pc = s.slot 30#5 ∧ t.status = s.status &&& 0xFFFFFFFB#32) ∧
      (s.status.getLsbD 2 = false → t.pc = s.slot 14#5 ∧ t.status = s.status &&& 0xFFFFFFFD#32) ∧
      t.isBranching = false ∧ t.delaySlot = 0 ∧ t.branchPc = s.branchPc ∧ SameSlotsBut [12#5] s t ∧ SameGpr s t ∧
      SamePairs s t ∧ SameMem s t ∧ SamePorts s t ∧ SameLatches s t

/-- `EI` and `DI` (R286, R287): `Status.EIE` set or cleared under the condition on the stored bits, otherwise no
effect. The spec's own decisions in it: the encodings and the condition (D2, D27), bit places (D22). -/
def Obligations.InterruptEnableInstructions : Prop :=
  ∀ (w : Word) (s : State),
    (cop0Co 0x38#6 w = true → decode w = .ok .ei ∧
      (MayChangeEIE s → CompletesWithSlot .ei s 12#5 (s.status ||| 0x00010000#32)) ∧
      (¬ MayChangeEIE s → CompletesWithNothing .ei s)) ∧
    (cop0Co 0x39#6 w = true → decode w = .ok .di ∧
      (MayChangeEIE s → CompletesWithSlot .di s 12#5 (s.status &&& 0xFFFEFFFF#32)) ∧
      (¬ MayChangeEIE s → CompletesWithNothing .di s))

/-! ### The address map -/

/-- `Route(vaddr)` (R43 to R51) with the numbers of R3 (log 1), for every address. The spec's own decisions in it: the
numbers (D18). -/
def Obligations.AddressMap : Prop :=
  ∀ va : VAddr,
    (0x70000000 ≤ va.toNat ∧ va.toNat ≤ 0x70003FFF → route va = .array .scratchpad (va.toNat - 0x70000000)) ∧
    (¬ (0x70000000 ≤ va.toNat ∧ va.toNat ≤ 0x70003FFF) → ∀ p, p = physicalNumber va.toNat →
      (p < 0x02000000 → route va = .array .localRam p) ∧
      (0x1FC00000 ≤ p → route va = .array .bootRom (p - 0x1FC00000)) ∧
      (0x1C000000 ≤ p ∧ p < 0x1C200000 → route va = .array .companionRam (p - 0x1C000000)) ∧
      (∀ row ∈ peripheralRanges, row.2.1 ≤ p ∧ p ≤ row.2.2 → route va = .peripheral row.1 (BitVec.ofNat 29 p)) ∧
      (0x02000000 ≤ p → p < 0x1FC00000 → ¬ (0x1C000000 ≤ p ∧ p < 0x1C200000) →
        (∀ row ∈ peripheralRanges, ¬ (row.2.1 ≤ p ∧ p ≤ row.2.2)) → route va = .busError (BitVec.ofNat 29 p)))

end Statements
end

