-- ==== Sys2Proof/Laws/Decode.lean ====
section
/-! SUPPORT. Which field of each format holds which part of an encoded word (`30_encoding.md` R71, R72). -/

namespace Sys2Proof

/-- A slice of the upper part of two words joined. -/
theorem slice_append_high {m n : Nat} (x : BitVec m) (y : BitVec n) {b k : Nat} (h : n ≤ b) :
    (x ++ y).extractLsb' b k = x.extractLsb' (b - n) k := by
  apply BitVec.eq_of_getLsbD_eq
  intro i hi
  rw [BitVec.getLsbD_extractLsb', BitVec.getLsbD_extractLsb', BitVec.getLsbD_append]
  have : ¬ b + i < n := by omega
  simp [this, show b + i - n = b - n + i by omega]

/-- A slice of the lower part of two words joined. -/
theorem slice_append_low {m n : Nat} (x : BitVec m) (y : BitVec n) {b k : Nat} (h : b + k ≤ n) :
    (x ++ y).extractLsb' b k = y.extractLsb' b k := by
  apply BitVec.eq_of_getLsbD_eq
  intro i hi
  rw [BitVec.getLsbD_extractLsb', BitVec.getLsbD_extractLsb', BitVec.getLsbD_append]
  have : b + i < n := by omega
  simp [this]

/-- The whole of a word as a slice. -/
theorem slice_all {n : Nat} (x : BitVec n) : x.extractLsb' 0 n = x := by
  apply BitVec.eq_of_getLsbD_eq
  intro i hi
  simp [hi]

/-! ### Fields of each format -/

@[simp] theorem opField_rType (op : BitVec 6) (rs rt rd : Reg) (sa : BitVec 5) (funct : BitVec 6) :
    opField (rType op rs rt rd sa funct) = op := by
  unfold opField rType
  rw [slice_append_high _ _ (by decide), slice_append_high _ _ (by decide), slice_append_high _ _ (by decide), slice_append_high _ _ (by decide), slice_append_high _ _ (by decide)]
  exact slice_all _

@[simp] theorem rsField_rType (op : BitVec 6) (rs rt rd : Reg) (sa : BitVec 5) (funct : BitVec 6) :
    rsField (rType op rs rt rd sa funct) = rs := by
  unfold rsField rType
  rw [slice_append_high _ _ (by decide), slice_append_high _ _ (by decide), slice_append_high _ _ (by decide), slice_append_high _ _ (by decide), slice_append_low _ _ (by decide)]
  exact slice_all _

@[simp] theorem rtField_rType (op : BitVec 6) (rs rt rd : Reg) (sa : BitVec 5) (funct : BitVec 6) :
    rtField (rType op rs rt rd sa funct) = rt := by
  unfold rtField rType
  rw [slice_append_high _ _ (by decide), slice_append_high _ _ (by decide), slice_append_high _ _ (by decide), slice_append_low _ _ (by decide)]
  exact slice_all _

@[simp] theorem rdField_rType (op : BitVec 6) (rs rt rd : Reg) (sa : BitVec 5) (funct : BitVec 6) :
    rdField (rType op rs rt rd sa funct) = rd := by
  unfold rdField rType
  rw [slice_append_high _ _ (by decide), slice_append_high _ _ (by decide), slice_append_low _ _ (by decide)]
  exact slice_all _

@[simp] theorem saField_rType (op : BitVec 6) (rs rt rd : Reg) (sa : BitVec 5) (funct : BitVec 6) :
    saField (rType op rs rt rd sa funct) = sa := by
  unfold saField rType
  rw [slice_append_high _ _ (by decide), slice_append_low _ _ (by decide)]
  exact slice_all _

@[simp] theorem functField_rType (op : BitVec 6) (rs rt rd : Reg) (sa : BitVec 5) (funct : BitVec 6) :
    functField (rType op rs rt rd sa funct) = funct := by
  unfold functField rType
  rw [slice_append_low _ _ (by decide)]
  exact slice_all _

@[simp] theorem opField_iType (op : BitVec 6) (rs rt : Reg) (imm : BitVec 16) :
    opField (iType op rs rt imm) = op := by
  unfold opField iType
  rw [slice_append_high _ _ (by decide), slice_append_high _ _ (by decide), slice_append_high _ _ (by decide)]
  exact slice_all _

@[simp] theorem rsField_iType (op : BitVec 6) (rs rt : Reg) (imm : BitVec 16) :
    rsField (iType op rs rt imm) = rs := by
  unfold rsField iType
  rw [slice_append_high _ _ (by decide), slice_append_high _ _ (by decide), slice_append_low _ _ (by decide)]
  exact slice_all _

@[simp] theorem rtField_iType (op : BitVec 6) (rs rt : Reg) (imm : BitVec 16) :
    rtField (iType op rs rt imm) = rt := by
  unfold rtField iType
  rw [slice_append_high _ _ (by decide), slice_append_low _ _ (by decide)]
  exact slice_all _

@[simp] theorem immField_iType (op : BitVec 6) (rs rt : Reg) (imm : BitVec 16) :
    immField (iType op rs rt imm) = imm := by
  unfold immField iType
  rw [slice_append_low _ _ (by decide)]
  exact slice_all _

@[simp] theorem opField_jType (op : BitVec 6) (index : BitVec 26) :
    opField (jType op index) = op := by
  unfold opField jType
  rw [slice_append_high _ _ (by decide)]
  exact slice_all _

@[simp] theorem indexField_jType (op : BitVec 6) (index : BitVec 26) :
    indexField (jType op index) = index := by
  unfold indexField jType
  rw [slice_append_low _ _ (by decide)]
  exact slice_all _

@[simp] theorem opField_codeType (code : BitVec 20) (funct : BitVec 6) :
    opField (codeType code funct) = 0x00#6 := by
  unfold opField codeType
  rw [slice_append_high _ _ (by decide), slice_append_high _ _ (by decide)]
  exact slice_all _

@[simp] theorem codeField_codeType (code : BitVec 20) (funct : BitVec 6) :
    codeField (codeType code funct) = code := by
  unfold codeField codeType
  rw [slice_append_high _ _ (by decide), slice_append_low _ _ (by decide)]
  exact slice_all _

@[simp] theorem functField_codeType (code : BitVec 20) (funct : BitVec 6) :
    functField (codeType code funct) = funct := by
  unfold functField codeType
  rw [slice_append_low _ _ (by decide)]
  exact slice_all _

/-- The all-zero word has every field zero. -/
theorem ne_zero_of_opField {w : Word} (h : opField w ≠ 0#6) : w ≠ 0#32 := by
  rintro rfl
  exact h (by decide)

theorem ne_zero_of_functField {w : Word} (h : functField w ≠ 0#6) : w ≠ 0#32 := by
  rintro rfl
  exact h (by decide)

/-- Past the zero word, decoding is the primary map (R74, R82). -/
theorem decode_of_ne_zero {w : Word} (h : w ≠ 0#32) : decode w = decodePrimary w := by
  simp [decode, h]

/-- The words of a primary opcode other than 0 (R75). -/
theorem decode_of_opField {w : Word} (h : opField w ≠ 0#6) : decode w = decodePrimary w :=
  decode_of_ne_zero (ne_zero_of_opField h)

/-- The words of SPECIAL with a `funct` other than 0 (R77). -/
theorem decode_of_special {w : Word} (h : opField w = 0#6) (hf : functField w ≠ 0#6) : decode w = decodeSpecial w := by
  rw [decode_of_ne_zero (ne_zero_of_functField hf)]
  simp [decodePrimary, h]

end Sys2Proof
end

