-- ==== Sys2Proof/Laws/Memory.lean ====
section
/-! SUPPORT. The laws of the list of cells: what a byte reads after a write, that every operation keeps the canonical
form, and where the addresses of a routed access lie. -/

namespace Sys2Proof.Machine

/-! ### One byte -/

theorem Memory.read_cons (c : Host.Cell) (m : Memory) (a : Nat) :
    Memory.read (c :: m) a = if c.1 = a then c.2 else Memory.read m a := rfl

/-- A cell below every listed one is unlisted. -/
theorem Memory.read_of_lt {m : Memory} {a : Nat} (h : ∀ c ∈ m, a < c.1) : m.read a = 0#8 := by
  induction m with
  | nil => rfl
  | cons c m ih =>
    have hc := h c (by simp)
    rw [Memory.read_cons, if_neg (by omega)]
    exact ih fun d hd => h d (by simp [hd])

/-- A write leaves every other byte alone, whatever the form of the list. -/
theorem Memory.read_write_of_ne (m : Memory) {a a' : Nat} (b : Byte) (h : a' ≠ a) :
    (m.write a b).read a' = m.read a' := by
  induction m with
  | nil =>
    unfold Memory.write
    split
    · rfl
    · rw [Memory.read_cons, if_neg (by simpa using h.symm)]
  | cons c m ih =>
    unfold Memory.write
    split
    · split
      · rfl
      · rw [Memory.read_cons, if_neg (by simpa using h.symm)]
    · split
      · next h1 h2 =>
        split
        · rw [Memory.read_cons, if_neg (by omega)]
        · rw [Memory.read_cons, Memory.read_cons, if_neg (by simpa using h.symm), if_neg (by omega)]
      · rw [Memory.read_cons, Memory.read_cons, ih]

theorem Memory.wf_tail {c : Host.Cell} {m : Memory} (h : Memory.wf (c :: m)) : Memory.wf m :=
  ⟨(List.pairwise_cons.1 h.1).2, fun d hd => h.2 d (by simp [hd])⟩

/-- A byte reads what was last written to it. -/
theorem Memory.read_write_self {m : Memory} (hm : m.wf) (a : Nat) (b : Byte) : (m.write a b).read a = b := by
  induction m with
  | nil =>
    unfold Memory.write
    split
    · next h => exact h.symm
    · rw [Memory.read_cons, if_pos rfl]
  | cons c m ih =>
    have hlow := (List.pairwise_cons.1 hm.1).1
    unfold Memory.write
    split
    · next hac =>
      split
      · next hb =>
        rw [Memory.read_of_lt, hb]
        · rfl
        · intro d hd
          rcases List.mem_cons.1 hd with rfl | hd
          · exact hac
          · have := hlow d hd
            omega
      · rw [Memory.read_cons, if_pos rfl]
    · split
      · next _ hac =>
        split
        · next hb =>
          rw [Memory.read_of_lt, hb]
          · rfl
          · intro d hd
            have := hlow d hd
            omega
        · rw [Memory.read_cons, if_pos rfl]
      · next h1 h2 => rw [Memory.read_cons, if_neg (by omega), ih (Memory.wf_tail hm)]

/-- The cells listed after a write were listed before, but for the one written. -/
theorem Memory.mem_write {m : Memory} {a : Nat} {b : Byte} {c : Host.Cell} (h : c ∈ m.write a b) :
    c ∈ m ∨ (c = (a, b) ∧ b ≠ 0#8) := by
  induction m with
  | nil =>
    unfold Memory.write at h
    split at h
    · simp at h
    · next hb => exact .inr ⟨by simpa using h, hb⟩
  | cons d m ih =>
    unfold Memory.write at h
    split at h
    · split at h
      · exact .inl h
      · next hb =>
        rcases List.mem_cons.1 h with h | h
        · exact .inr ⟨h, hb⟩
        · exact .inl h
    · split at h
      · split at h
        · exact .inl (List.mem_cons_of_mem _ h)
        · next hb =>
          rcases List.mem_cons.1 h with h | h
          · exact .inr ⟨h, hb⟩
          · exact .inl (List.mem_cons_of_mem _ h)
      · rcases List.mem_cons.1 h with h | h
        · exact .inl (by simp [h])
        · exact (ih h).imp (List.mem_cons_of_mem _) id

/-- A write keeps the canonical form. -/
theorem Memory.wf_write {m : Memory} (hm : m.wf) (a : Nat) (b : Byte) : (m.write a b).wf := by
  induction m with
  | nil =>
    unfold Memory.write
    split
    · exact hm
    · next hb => exact ⟨by simp, fun c hc => by rw [List.mem_singleton.1 hc]; exact hb⟩
  | cons c m ih =>
    have hlow := (List.pairwise_cons.1 hm.1).1
    have htail := Memory.wf_tail hm
    unfold Memory.write
    split
    · next hac =>
      split
      · exact hm
      · next hb =>
        refine ⟨List.pairwise_cons.2 ⟨fun d hd => ?_, hm.1⟩, fun d hd => ?_⟩
        · rcases List.mem_cons.1 hd with rfl | hd
          · exact hac
          · have := hlow d hd
            simp only
            omega
        · rcases List.mem_cons.1 hd with rfl | hd
          · exact hb
          · exact hm.2 d hd
    · split
      · next _ hac =>
        split
        · exact htail
        · next hb =>
          refine ⟨List.pairwise_cons.2 ⟨fun d hd => ?_, htail.1⟩, fun d hd => ?_⟩
          · have := hlow d hd
            simp only
            omega
          · rcases List.mem_cons.1 hd with rfl | hd
            · exact hb
            · exact htail.2 d hd
      · next h1 h2 =>
        have h' := ih htail
        refine ⟨List.pairwise_cons.2 ⟨fun d hd => ?_, h'.1⟩, fun d hd => ?_⟩
        · rcases Memory.mem_write hd with hd | ⟨rfl, _⟩
          · exact hlow d hd
          · simp only
            omega
        · rcases List.mem_cons.1 hd with rfl | hd
          · exact hm.2 _ (by simp)
          · exact h'.2 d hd

/-! ### Several bytes -/

/-- A wide write leaves every byte outside its range alone. -/
theorem Memory.read_writeLE_outside (m : Memory) (a : Nat) (v : QWord) (n : Nat) {a' : Nat}
    (h : a' < a ∨ a + n ≤ a') : (m.writeLE a v n).read a' = m.read a' := by
  induction n generalizing m a v with
  | zero => rfl
  | succ n ih =>
    unfold Memory.writeLE
    rw [ih _ _ _ (by omega), Memory.read_write_of_ne _ _ (by omega)]

/-- A wide write keeps the canonical form. -/
theorem Memory.wf_writeLE {m : Memory} (hm : m.wf) (a : Nat) (v : QWord) (n : Nat) : (m.writeLE a v n).wf := by
  induction n generalizing m a v with
  | zero => exact hm
  | succ n ih => exact ih (Memory.wf_write hm _ _) _ _

/-- The cells listed after a wide write were listed before, but for the range written. -/
theorem Memory.mem_writeLE {m : Memory} {a : Nat} {v : QWord} {n : Nat} {c : Host.Cell} (h : c ∈ m.writeLE a v n) :
    c ∈ m ∨ (a ≤ c.1 ∧ c.1 < a + n) := by
  induction n generalizing m a v with
  | zero => exact .inl h
  | succ n ih =>
    rcases ih h with h | h
    · rcases Memory.mem_write h with h | ⟨rfl, _⟩
      · exact .inl h
      · exact .inr ⟨Nat.le_refl _, by simp only; omega⟩
    · exact .inr (by omega)

/-- Byte `k` of the range holds byte `k` of the value, counted from the least significant. -/
theorem Memory.read_writeLE_inside {m : Memory} (hm : m.wf) (a : Nat) (v : QWord) (n k : Nat) (h : k < n) :
    (m.writeLE a v n).read (a + k) = BitVec.ofNat 8 (v.toNat / 2 ^ (8 * k)) := by
  induction n generalizing m a v k with
  | zero => omega
  | succ n ih =>
    unfold Memory.writeLE
    cases k with
    | zero =>
      rw [Memory.read_writeLE_outside _ _ _ _ (by omega), Nat.add_zero, Memory.read_write_self hm]
      apply BitVec.eq_of_toNat_eq
      simp
    | succ k =>
      have := ih (Memory.wf_write hm a (v.setWidth 8)) (a + 1) (v >>> 8) k (by omega)
      rw [show a + (k + 1) = a + 1 + k by omega, this]
      congr 1
      rw [BitVec.toNat_ushiftRight, Nat.shiftRight_eq_div_pow, Nat.div_div_eq_div_mul, ← Nat.pow_add]
      congr 2
      omega

/-- Reading `n ≤ 16` bytes: the first byte, and the rest eight bits higher. -/
theorem Memory.toNat_readLE_succ (m : Memory) (a n : Nat) (h : n < 16)
    (hr : (m.readLE (a + 1) n).toNat < 2 ^ (8 * n)) :
    (m.readLE a (n + 1)).toNat = (m.read a).toNat + 256 * (m.readLE (a + 1) n).toNat := by
  have hpow : 2 ^ (8 * n) * 256 ≤ 2 ^ 128 := by
    rw [show (256 : Nat) = 2 ^ 8 from rfl, ← Nat.pow_add]
    exact Nat.pow_le_pow_right (by decide) (by omega)
  have hb := (m.read a).isLt
  have hshift : (m.readLE (a + 1) n <<< 8).toNat = (m.readLE (a + 1) n).toNat <<< 8 := by
    rw [BitVec.toNat_shiftLeft, Nat.mod_eq_of_lt]
    rw [Nat.shiftLeft_eq]
    omega
  show ((m.readLE (a + 1) n <<< 8) ||| (m.read a).setWidth 128).toNat = _
  rw [BitVec.toNat_or, hshift, BitVec.toNat_setWidth, Nat.mod_eq_of_lt (by omega),
    ← Nat.shiftLeft_add_eq_or_of_lt (by omega), Nat.shiftLeft_eq]
  omega

/-- `n` bytes make a number below `2 ^ (8 n)`. -/
theorem Memory.toNat_readLE_lt (m : Memory) (a n : Nat) (h : n ≤ 16) : (m.readLE a n).toNat < 2 ^ (8 * n) := by
  induction n generalizing a with
  | zero => simp [Memory.readLE]
  | succ n ih =>
    have hr := ih (a + 1) (by omega)
    rw [Memory.toNat_readLE_succ _ _ _ (by omega) hr]
    have hb := (m.read a).isLt
    have : 2 ^ (8 * (n + 1)) = 2 ^ (8 * n) * 256 := by
      rw [show 8 * (n + 1) = 8 * n + 8 by omega, Nat.pow_add]
    omega

/-- Reading back what was written. -/
theorem Memory.toNat_readLE_writeLE {m : Memory} (hm : m.wf) (a : Nat) (v : QWord) (n : Nat) (h : n ≤ 16) :
    ((m.writeLE a v n).readLE a n).toNat = v.toNat % 2 ^ (8 * n) := by
  suffices ∀ k, k ≤ n → ((m.writeLE a v n).readLE (a + (n - k)) k).toNat =
      v.toNat / 2 ^ (8 * (n - k)) % 2 ^ (8 * k) by
    have := this n (Nat.le_refl n)
    simpa using this
  intro k hk
  induction k with
  | zero => simp [Memory.readLE, Nat.mod_one]
  | succ k ih =>
    have ih' := ih (by omega)
    rw [show a + (n - k) = a + (n - (k + 1)) + 1 by omega, show n - k = n - (k + 1) + 1 by omega] at ih'
    rw [Memory.toNat_readLE_succ _ _ _ (by omega) (Memory.toNat_readLE_lt _ _ _ (by omega)), ih',
      Memory.read_writeLE_inside hm _ _ _ _ (by omega), BitVec.toNat_ofNat]
    generalize v.toNat = x
    have e1 : (2 : Nat) ^ (8 * (n - (k + 1) + 1)) = 2 ^ (8 * (n - (k + 1))) * 256 := by
      rw [show 8 * (n - (k + 1) + 1) = 8 * (n - (k + 1)) + 8 by omega, Nat.pow_add]
    have e2 : (2 : Nat) ^ (8 * (k + 1)) = 256 * 2 ^ (8 * k) := by
      rw [show 8 * (k + 1) = 8 + 8 * k by omega, Nat.pow_add]
    rw [e1, e2, ← Nat.div_div_eq_div_mul]
    generalize x / 2 ^ (8 * (n - (k + 1))) = y
    rw [Nat.mod_mul]

/-! ### Where a routed access lies -/

/-- What a route to an array says of the address: the window, or the physical range, and the offset. -/
theorem route_array_cases {va : VAddr} {r : Region} {o : Nat} (h : route va = .array r o) :
    (r = .scratchpad ∧ 0x70000000 ≤ va.toNat ∧ va.toNat < 0x70004000 ∧ o = va.toNat - 0x70000000) ∨
    (r = .localRam ∧ (physicalAddress va).toNat < 0x02000000 ∧ o = (physicalAddress va).toNat) ∨
    (r = .bootRom ∧ 0x1FC00000 ≤ (physicalAddress va).toNat ∧ (physicalAddress va).toNat < 0x20000000 ∧
      o = (physicalAddress va).toNat - 0x1FC00000) ∨
    (r = .companionRam ∧ 0x1C000000 ≤ (physicalAddress va).toNat ∧ (physicalAddress va).toNat < 0x1C200000 ∧
      o = (physicalAddress va).toNat - 0x1C000000) := by
  unfold route routePhysical at h
  split at h
  · next hc =>
    simp only [Target.array.injEq] at h
    simp only [Config.sprBase, Config.sprSize] at hc h
    exact .inl ⟨h.1.symm, by omega, by omega, h.2.symm⟩
  · split at h
    · next hc =>
      simp only [Target.array.injEq] at h
      simp only [Config.ramBase, Config.ramSize] at hc h
      exact .inr (.inl ⟨h.1.symm, by omega, by omega⟩)
    · split at h
      · next hc =>
        simp only [Target.array.injEq] at h
        simp only [Config.romBase, Config.romSize] at hc h
        exact .inr (.inr (.inl ⟨h.1.symm, by omega, by omega, h.2.symm⟩))
      · split at h
        · next hc =>
          simp only [Target.array.injEq] at h
          simp only [Config.iopRamBase, Config.iopRamSize] at hc h
          exact .inr (.inr (.inr ⟨h.1.symm, by omega, by omega, h.2.symm⟩))
        · split at h <;> simp at h

/-- The offset of a routed access lies inside its array. -/
theorem route_offset_lt {va : VAddr} {r : Region} {o : Nat} (h : route va = .array r o) : o < regionSize r := by
  obtain ⟨rfl, h1, h2, h3⟩ | ⟨rfl, h1, h2⟩ | ⟨rfl, h1, h2, h3⟩ | ⟨rfl, h1, h2, h3⟩ := route_array_cases h <;>
    simp only [regionSize, Config.sprSize, Config.ramSize, Config.romSize, Config.iopRamSize] <;> omega

/-- The physical address keeps the low four bits of the virtual one (R45, R47). -/
theorem physicalAddress_mod (va : VAddr) : (physicalAddress va).toNat % 16 = va.toNat % 16 := by
  have hva := va.isLt
  have key : ∀ a : VAddr, (a.extractLsb' 0 29).toNat % 16 = a.toNat % 16 := fun a => by
    rw [BitVec.extractLsb'_toNat, Nat.shiftRight_zero]
    omega
  unfold physicalAddress
  simp only
  split
  · rw [key, Config.ucabOffset, BitVec.toNat_sub, BitVec.toNat_ofNat]
    omega
  · exact key va

/-- A routed access keeps the low four bits of its address: every array starts at a multiple of 16. -/
theorem cellOf_mod {va : VAddr} {r : Region} {o : Nat} (h : route va = .array r o) :
    cellOf r o % 16 = va.toNat % 16 := by
  have hp := physicalAddress_mod va
  obtain ⟨rfl, h1, h2, h3⟩ | ⟨rfl, h1, h2⟩ | ⟨rfl, h1, h2, h3⟩ | ⟨rfl, h1, h2, h3⟩ := route_array_cases h <;>
    simp only [cellOf, regionBase, Config.sprBase, Config.ramBase, Config.romBase, Config.iopRamBase] <;> omega

/-- Every array is made of whole blocks of 16 bytes. -/
theorem region_blocks (r : Region) : regionBase r % 16 = 0 ∧ regionSize r % 16 = 0 := by
  cases r <;> decide

/-- The cell of a boot ROM offset belongs to no other array. -/
theorem rom_cell_disjoint {r : Region} {o o' : Nat} (hr : r ≠ .bootRom) (ho : o < regionSize r) (ho' : o' < 0x400000) :
    cellOf r o ≠ cellOf .bootRom o' := by
  cases r <;>
    simp_all only [cellOf, regionBase, regionSize, Config.sprBase, Config.sprSize, Config.ramBase, Config.ramSize,
      Config.romBase, Config.iopRamBase, Config.iopRamSize, ne_eq, not_true_eq_false] <;>
    omega

end Sys2Proof.Machine
end

