-- ==== Sys2Proof/Laws/State.lean ====
section
/-! SUPPORT. One lemma for each field and each update of the state, then what the register and slot accessors read
after an update. -/

namespace Sys2Proof.Machine

/-! ### `setReg` -/

@[simp] theorem State.setReg_pc (s : State) (r : Reg) (v : QWord) : (s.setReg r v).pc = s.pc :=
  by unfold State.setReg; split <;> rfl
@[simp] theorem State.setReg_branchPc (s : State) (r : Reg) (v : QWord) : (s.setReg r v).branchPc = s.branchPc :=
  by unfold State.setReg; split <;> rfl
@[simp] theorem State.setReg_isBranching (s : State) (r : Reg) (v : QWord) : (s.setReg r v).isBranching = s.isBranching :=
  by unfold State.setReg; split <;> rfl
@[simp] theorem State.setReg_delaySlot (s : State) (r : Reg) (v : QWord) : (s.setReg r v).delaySlot = s.delaySlot :=
  by unfold State.setReg; split <;> rfl
@[simp] theorem State.setReg_currentInstruction (s : State) (r : Reg) (v : QWord) : (s.setReg r v).currentInstruction = s.currentInstruction :=
  by unfold State.setReg; split <;> rfl
@[simp] theorem State.setReg_nextInstruction (s : State) (r : Reg) (v : QWord) : (s.setReg r v).nextInstruction = s.nextInstruction :=
  by unfold State.setReg; split <;> rfl
@[simp] theorem State.setReg_hi (s : State) (r : Reg) (v : QWord) : (s.setReg r v).hi = s.hi :=
  by unfold State.setReg; split <;> rfl
@[simp] theorem State.setReg_lo (s : State) (r : Reg) (v : QWord) : (s.setReg r v).lo = s.lo :=
  by unfold State.setReg; split <;> rfl
@[simp] theorem State.setReg_hi1 (s : State) (r : Reg) (v : QWord) : (s.setReg r v).hi1 = s.hi1 :=
  by unfold State.setReg; split <;> rfl
@[simp] theorem State.setReg_lo1 (s : State) (r : Reg) (v : QWord) : (s.setReg r v).lo1 = s.lo1 :=
  by unfold State.setReg; split <;> rfl
@[simp] theorem State.setReg_cop0 (s : State) (r : Reg) (v : QWord) : (s.setReg r v).cop0 = s.cop0 :=
  by unfold State.setReg; split <;> rfl
@[simp] theorem State.setReg_mem (s : State) (r : Reg) (v : QWord) : (s.setReg r v).mem = s.mem :=
  by unfold State.setReg; split <;> rfl
@[simp] theorem State.setReg_resetDone (s : State) (r : Reg) (v : QWord) : (s.setReg r v).resetDone = s.resetDone :=
  by unfold State.setReg; split <;> rfl
@[simp] theorem State.setReg_events (s : State) (r : Reg) (v : QWord) : (s.setReg r v).events = s.events :=
  by unfold State.setReg; split <;> rfl
@[simp] theorem State.setReg_freeIndex (s : State) (r : Reg) (v : QWord) : (s.setReg r v).freeIndex = s.freeIndex :=
  by unfold State.setReg; split <;> rfl

/-! ### `setLow` -/

@[simp] theorem State.setLow_pc (s : State) (r : Reg) (v : DWord) : (s.setLow r v).pc = s.pc :=
  State.setReg_pc _ _ _
@[simp] theorem State.setLow_branchPc (s : State) (r : Reg) (v : DWord) : (s.setLow r v).branchPc = s.branchPc :=
  State.setReg_branchPc _ _ _
@[simp] theorem State.setLow_isBranching (s : State) (r : Reg) (v : DWord) : (s.setLow r v).isBranching = s.isBranching :=
  State.setReg_isBranching _ _ _
@[simp] theorem State.setLow_delaySlot (s : State) (r : Reg) (v : DWord) : (s.setLow r v).delaySlot = s.delaySlot :=
  State.setReg_delaySlot _ _ _
@[simp] theorem State.setLow_currentInstruction (s : State) (r : Reg) (v : DWord) : (s.setLow r v).currentInstruction = s.currentInstruction :=
  State.setReg_currentInstruction _ _ _
@[simp] theorem State.setLow_nextInstruction (s : State) (r : Reg) (v : DWord) : (s.setLow r v).nextInstruction = s.nextInstruction :=
  State.setReg_nextInstruction _ _ _
@[simp] theorem State.setLow_hi (s : State) (r : Reg) (v : DWord) : (s.setLow r v).hi = s.hi :=
  State.setReg_hi _ _ _
@[simp] theorem State.setLow_lo (s : State) (r : Reg) (v : DWord) : (s.setLow r v).lo = s.lo :=
  State.setReg_lo _ _ _
@[simp] theorem State.setLow_hi1 (s : State) (r : Reg) (v : DWord) : (s.setLow r v).hi1 = s.hi1 :=
  State.setReg_hi1 _ _ _
@[simp] theorem State.setLow_lo1 (s : State) (r : Reg) (v : DWord) : (s.setLow r v).lo1 = s.lo1 :=
  State.setReg_lo1 _ _ _
@[simp] theorem State.setLow_cop0 (s : State) (r : Reg) (v : DWord) : (s.setLow r v).cop0 = s.cop0 :=
  State.setReg_cop0 _ _ _
@[simp] theorem State.setLow_mem (s : State) (r : Reg) (v : DWord) : (s.setLow r v).mem = s.mem :=
  State.setReg_mem _ _ _
@[simp] theorem State.setLow_resetDone (s : State) (r : Reg) (v : DWord) : (s.setLow r v).resetDone = s.resetDone :=
  State.setReg_resetDone _ _ _
@[simp] theorem State.setLow_events (s : State) (r : Reg) (v : DWord) : (s.setLow r v).events = s.events :=
  State.setReg_events _ _ _
@[simp] theorem State.setLow_freeIndex (s : State) (r : Reg) (v : DWord) : (s.setLow r v).freeIndex = s.freeIndex :=
  State.setReg_freeIndex _ _ _

/-! ### `setWord` -/

@[simp] theorem State.setWord_pc (s : State) (r : Reg) (w : Word) : (s.setWord r w).pc = s.pc :=
  State.setLow_pc _ _ _
@[simp] theorem State.setWord_branchPc (s : State) (r : Reg) (w : Word) : (s.setWord r w).branchPc = s.branchPc :=
  State.setLow_branchPc _ _ _
@[simp] theorem State.setWord_isBranching (s : State) (r : Reg) (w : Word) : (s.setWord r w).isBranching = s.isBranching :=
  State.setLow_isBranching _ _ _
@[simp] theorem State.setWord_delaySlot (s : State) (r : Reg) (w : Word) : (s.setWord r w).delaySlot = s.delaySlot :=
  State.setLow_delaySlot _ _ _
@[simp] theorem State.setWord_currentInstruction (s : State) (r : Reg) (w : Word) : (s.setWord r w).currentInstruction = s.currentInstruction :=
  State.setLow_currentInstruction _ _ _
@[simp] theorem State.setWord_nextInstruction (s : State) (r : Reg) (w : Word) : (s.setWord r w).nextInstruction = s.nextInstruction :=
  State.setLow_nextInstruction _ _ _
@[simp] theorem State.setWord_hi (s : State) (r : Reg) (w : Word) : (s.setWord r w).hi = s.hi :=
  State.setLow_hi _ _ _
@[simp] theorem State.setWord_lo (s : State) (r : Reg) (w : Word) : (s.setWord r w).lo = s.lo :=
  State.setLow_lo _ _ _
@[simp] theorem State.setWord_hi1 (s : State) (r : Reg) (w : Word) : (s.setWord r w).hi1 = s.hi1 :=
  State.setLow_hi1 _ _ _
@[simp] theorem State.setWord_lo1 (s : State) (r : Reg) (w : Word) : (s.setWord r w).lo1 = s.lo1 :=
  State.setLow_lo1 _ _ _
@[simp] theorem State.setWord_cop0 (s : State) (r : Reg) (w : Word) : (s.setWord r w).cop0 = s.cop0 :=
  State.setLow_cop0 _ _ _
@[simp] theorem State.setWord_mem (s : State) (r : Reg) (w : Word) : (s.setWord r w).mem = s.mem :=
  State.setLow_mem _ _ _
@[simp] theorem State.setWord_resetDone (s : State) (r : Reg) (w : Word) : (s.setWord r w).resetDone = s.resetDone :=
  State.setLow_resetDone _ _ _
@[simp] theorem State.setWord_events (s : State) (r : Reg) (w : Word) : (s.setWord r w).events = s.events :=
  State.setLow_events _ _ _
@[simp] theorem State.setWord_freeIndex (s : State) (r : Reg) (w : Word) : (s.setWord r w).freeIndex = s.freeIndex :=
  State.setLow_freeIndex _ _ _

/-! ### `setSlot` -/

@[simp] theorem State.setSlot_gpr (s : State) (n : Reg) (w : Word) : (s.setSlot n w).gpr = s.gpr := rfl
@[simp] theorem State.setSlot_pc (s : State) (n : Reg) (w : Word) : (s.setSlot n w).pc = s.pc := rfl
@[simp] theorem State.setSlot_branchPc (s : State) (n : Reg) (w : Word) : (s.setSlot n w).branchPc = s.branchPc := rfl
@[simp] theorem State.setSlot_isBranching (s : State) (n : Reg) (w : Word) : (s.setSlot n w).isBranching = s.isBranching := rfl
@[simp] theorem State.setSlot_delaySlot (s : State) (n : Reg) (w : Word) : (s.setSlot n w).delaySlot = s.delaySlot := rfl
@[simp] theorem State.setSlot_currentInstruction (s : State) (n : Reg) (w : Word) : (s.setSlot n w).currentInstruction = s.currentInstruction := rfl
@[simp] theorem State.setSlot_nextInstruction (s : State) (n : Reg) (w : Word) : (s.setSlot n w).nextInstruction = s.nextInstruction := rfl
@[simp] theorem State.setSlot_hi (s : State) (n : Reg) (w : Word) : (s.setSlot n w).hi = s.hi := rfl
@[simp] theorem State.setSlot_lo (s : State) (n : Reg) (w : Word) : (s.setSlot n w).lo = s.lo := rfl
@[simp] theorem State.setSlot_hi1 (s : State) (n : Reg) (w : Word) : (s.setSlot n w).hi1 = s.hi1 := rfl
@[simp] theorem State.setSlot_lo1 (s : State) (n : Reg) (w : Word) : (s.setSlot n w).lo1 = s.lo1 := rfl
@[simp] theorem State.setSlot_mem (s : State) (n : Reg) (w : Word) : (s.setSlot n w).mem = s.mem := rfl
@[simp] theorem State.setSlot_resetDone (s : State) (n : Reg) (w : Word) : (s.setSlot n w).resetDone = s.resetDone := rfl
@[simp] theorem State.setSlot_events (s : State) (n : Reg) (w : Word) : (s.setSlot n w).events = s.events := rfl
@[simp] theorem State.setSlot_freeIndex (s : State) (n : Reg) (w : Word) : (s.setSlot n w).freeIndex = s.freeIndex := rfl

/-! ### `setStatus` -/

@[simp] theorem State.setStatus_gpr (s : State) (w : Word) : (s.setStatus w).gpr = s.gpr := rfl
@[simp] theorem State.setStatus_pc (s : State) (w : Word) : (s.setStatus w).pc = s.pc := rfl
@[simp] theorem State.setStatus_branchPc (s : State) (w : Word) : (s.setStatus w).branchPc = s.branchPc := rfl
@[simp] theorem State.setStatus_isBranching (s : State) (w : Word) : (s.setStatus w).isBranching = s.isBranching := rfl
@[simp] theorem State.setStatus_delaySlot (s : State) (w : Word) : (s.setStatus w).delaySlot = s.delaySlot := rfl
@[simp] theorem State.setStatus_currentInstruction (s : State) (w : Word) : (s.setStatus w).currentInstruction = s.currentInstruction := rfl
@[simp] theorem State.setStatus_nextInstruction (s : State) (w : Word) : (s.setStatus w).nextInstruction = s.nextInstruction := rfl
@[simp] theorem State.setStatus_hi (s : State) (w : Word) : (s.setStatus w).hi = s.hi := rfl
@[simp] theorem State.setStatus_lo (s : State) (w : Word) : (s.setStatus w).lo = s.lo := rfl
@[simp] theorem State.setStatus_hi1 (s : State) (w : Word) : (s.setStatus w).hi1 = s.hi1 := rfl
@[simp] theorem State.setStatus_lo1 (s : State) (w : Word) : (s.setStatus w).lo1 = s.lo1 := rfl
@[simp] theorem State.setStatus_mem (s : State) (w : Word) : (s.setStatus w).mem = s.mem := rfl
@[simp] theorem State.setStatus_resetDone (s : State) (w : Word) : (s.setStatus w).resetDone = s.resetDone := rfl
@[simp] theorem State.setStatus_events (s : State) (w : Word) : (s.setStatus w).events = s.events := rfl
@[simp] theorem State.setStatus_freeIndex (s : State) (w : Word) : (s.setStatus w).freeIndex = s.freeIndex := rfl

/-! ### `setCause` -/

@[simp] theorem State.setCause_gpr (s : State) (w : Word) : (s.setCause w).gpr = s.gpr := rfl
@[simp] theorem State.setCause_pc (s : State) (w : Word) : (s.setCause w).pc = s.pc := rfl
@[simp] theorem State.setCause_branchPc (s : State) (w : Word) : (s.setCause w).branchPc = s.branchPc := rfl
@[simp] theorem State.setCause_isBranching (s : State) (w : Word) : (s.setCause w).isBranching = s.isBranching := rfl
@[simp] theorem State.setCause_delaySlot (s : State) (w : Word) : (s.setCause w).delaySlot = s.delaySlot := rfl
@[simp] theorem State.setCause_currentInstruction (s : State) (w : Word) : (s.setCause w).currentInstruction = s.currentInstruction := rfl
@[simp] theorem State.setCause_nextInstruction (s : State) (w : Word) : (s.setCause w).nextInstruction = s.nextInstruction := rfl
@[simp] theorem State.setCause_hi (s : State) (w : Word) : (s.setCause w).hi = s.hi := rfl
@[simp] theorem State.setCause_lo (s : State) (w : Word) : (s.setCause w).lo = s.lo := rfl
@[simp] theorem State.setCause_hi1 (s : State) (w : Word) : (s.setCause w).hi1 = s.hi1 := rfl
@[simp] theorem State.setCause_lo1 (s : State) (w : Word) : (s.setCause w).lo1 = s.lo1 := rfl
@[simp] theorem State.setCause_mem (s : State) (w : Word) : (s.setCause w).mem = s.mem := rfl
@[simp] theorem State.setCause_resetDone (s : State) (w : Word) : (s.setCause w).resetDone = s.resetDone := rfl
@[simp] theorem State.setCause_events (s : State) (w : Word) : (s.setCause w).events = s.events := rfl
@[simp] theorem State.setCause_freeIndex (s : State) (w : Word) : (s.setCause w).freeIndex = s.freeIndex := rfl

/-! ### `setEPC` -/

@[simp] theorem State.setEPC_gpr (s : State) (w : Word) : (s.setEPC w).gpr = s.gpr := rfl
@[simp] theorem State.setEPC_pc (s : State) (w : Word) : (s.setEPC w).pc = s.pc := rfl
@[simp] theorem State.setEPC_branchPc (s : State) (w : Word) : (s.setEPC w).branchPc = s.branchPc := rfl
@[simp] theorem State.setEPC_isBranching (s : State) (w : Word) : (s.setEPC w).isBranching = s.isBranching := rfl
@[simp] theorem State.setEPC_delaySlot (s : State) (w : Word) : (s.setEPC w).delaySlot = s.delaySlot := rfl
@[simp] theorem State.setEPC_currentInstruction (s : State) (w : Word) : (s.setEPC w).currentInstruction = s.currentInstruction := rfl
@[simp] theorem State.setEPC_nextInstruction (s : State) (w : Word) : (s.setEPC w).nextInstruction = s.nextInstruction := rfl
@[simp] theorem State.setEPC_hi (s : State) (w : Word) : (s.setEPC w).hi = s.hi := rfl
@[simp] theorem State.setEPC_lo (s : State) (w : Word) : (s.setEPC w).lo = s.lo := rfl
@[simp] theorem State.setEPC_hi1 (s : State) (w : Word) : (s.setEPC w).hi1 = s.hi1 := rfl
@[simp] theorem State.setEPC_lo1 (s : State) (w : Word) : (s.setEPC w).lo1 = s.lo1 := rfl
@[simp] theorem State.setEPC_mem (s : State) (w : Word) : (s.setEPC w).mem = s.mem := rfl
@[simp] theorem State.setEPC_resetDone (s : State) (w : Word) : (s.setEPC w).resetDone = s.resetDone := rfl
@[simp] theorem State.setEPC_events (s : State) (w : Word) : (s.setEPC w).events = s.events := rfl
@[simp] theorem State.setEPC_freeIndex (s : State) (w : Word) : (s.setEPC w).freeIndex = s.freeIndex := rfl

/-! ### `emit` -/

@[simp] theorem State.emit_gpr (s : State) (e : Event) : (s.emit e).gpr = s.gpr := rfl
@[simp] theorem State.emit_pc (s : State) (e : Event) : (s.emit e).pc = s.pc := rfl
@[simp] theorem State.emit_branchPc (s : State) (e : Event) : (s.emit e).branchPc = s.branchPc := rfl
@[simp] theorem State.emit_isBranching (s : State) (e : Event) : (s.emit e).isBranching = s.isBranching := rfl
@[simp] theorem State.emit_delaySlot (s : State) (e : Event) : (s.emit e).delaySlot = s.delaySlot := rfl
@[simp] theorem State.emit_currentInstruction (s : State) (e : Event) : (s.emit e).currentInstruction = s.currentInstruction := rfl
@[simp] theorem State.emit_nextInstruction (s : State) (e : Event) : (s.emit e).nextInstruction = s.nextInstruction := rfl
@[simp] theorem State.emit_hi (s : State) (e : Event) : (s.emit e).hi = s.hi := rfl
@[simp] theorem State.emit_lo (s : State) (e : Event) : (s.emit e).lo = s.lo := rfl
@[simp] theorem State.emit_hi1 (s : State) (e : Event) : (s.emit e).hi1 = s.hi1 := rfl
@[simp] theorem State.emit_lo1 (s : State) (e : Event) : (s.emit e).lo1 = s.lo1 := rfl
@[simp] theorem State.emit_cop0 (s : State) (e : Event) : (s.emit e).cop0 = s.cop0 := rfl
@[simp] theorem State.emit_mem (s : State) (e : Event) : (s.emit e).mem = s.mem := rfl
@[simp] theorem State.emit_resetDone (s : State) (e : Event) : (s.emit e).resetDone = s.resetDone := rfl
@[simp] theorem State.emit_freeIndex (s : State) (e : Event) : (s.emit e).freeIndex = s.freeIndex := rfl

/-! ### `assertLines` -/

@[simp] theorem State.assertLines_gpr (s : State) (w : Word) : (s.assertLines w).gpr = s.gpr := rfl
@[simp] theorem State.assertLines_pc (s : State) (w : Word) : (s.assertLines w).pc = s.pc := rfl
@[simp] theorem State.assertLines_branchPc (s : State) (w : Word) : (s.assertLines w).branchPc = s.branchPc := rfl
@[simp] theorem State.assertLines_isBranching (s : State) (w : Word) : (s.assertLines w).isBranching = s.isBranching := rfl
@[simp] theorem State.assertLines_delaySlot (s : State) (w : Word) : (s.assertLines w).delaySlot = s.delaySlot := rfl
@[simp] theorem State.assertLines_currentInstruction (s : State) (w : Word) : (s.assertLines w).currentInstruction = s.currentInstruction := rfl
@[simp] theorem State.assertLines_nextInstruction (s : State) (w : Word) : (s.assertLines w).nextInstruction = s.nextInstruction := rfl
@[simp] theorem State.assertLines_hi (s : State) (w : Word) : (s.assertLines w).hi = s.hi := rfl
@[simp] theorem State.assertLines_lo (s : State) (w : Word) : (s.assertLines w).lo = s.lo := rfl
@[simp] theorem State.assertLines_hi1 (s : State) (w : Word) : (s.assertLines w).hi1 = s.hi1 := rfl
@[simp] theorem State.assertLines_lo1 (s : State) (w : Word) : (s.assertLines w).lo1 = s.lo1 := rfl
@[simp] theorem State.assertLines_mem (s : State) (w : Word) : (s.assertLines w).mem = s.mem := rfl
@[simp] theorem State.assertLines_resetDone (s : State) (w : Word) : (s.assertLines w).resetDone = s.resetDone := rfl
@[simp] theorem State.assertLines_events (s : State) (w : Word) : (s.assertLines w).events = s.events := rfl
@[simp] theorem State.assertLines_freeIndex (s : State) (w : Word) : (s.assertLines w).freeIndex = s.freeIndex := rfl

/-! ### `setPair` -/

@[simp] theorem State.setPair_gpr (s : State) (lo hi : DWord) : (s.setPair lo hi).gpr = s.gpr := rfl
@[simp] theorem State.setPair_pc (s : State) (lo hi : DWord) : (s.setPair lo hi).pc = s.pc := rfl
@[simp] theorem State.setPair_branchPc (s : State) (lo hi : DWord) : (s.setPair lo hi).branchPc = s.branchPc := rfl
@[simp] theorem State.setPair_isBranching (s : State) (lo hi : DWord) : (s.setPair lo hi).isBranching = s.isBranching := rfl
@[simp] theorem State.setPair_delaySlot (s : State) (lo hi : DWord) : (s.setPair lo hi).delaySlot = s.delaySlot := rfl
@[simp] theorem State.setPair_currentInstruction (s : State) (lo hi : DWord) : (s.setPair lo hi).currentInstruction = s.currentInstruction := rfl
@[simp] theorem State.setPair_nextInstruction (s : State) (lo hi : DWord) : (s.setPair lo hi).nextInstruction = s.nextInstruction := rfl
@[simp] theorem State.setPair_hi1 (s : State) (lo hi : DWord) : (s.setPair lo hi).hi1 = s.hi1 := rfl
@[simp] theorem State.setPair_lo1 (s : State) (lo hi : DWord) : (s.setPair lo hi).lo1 = s.lo1 := rfl
@[simp] theorem State.setPair_cop0 (s : State) (lo hi : DWord) : (s.setPair lo hi).cop0 = s.cop0 := rfl
@[simp] theorem State.setPair_mem (s : State) (lo hi : DWord) : (s.setPair lo hi).mem = s.mem := rfl
@[simp] theorem State.setPair_resetDone (s : State) (lo hi : DWord) : (s.setPair lo hi).resetDone = s.resetDone := rfl
@[simp] theorem State.setPair_events (s : State) (lo hi : DWord) : (s.setPair lo hi).events = s.events := rfl
@[simp] theorem State.setPair_freeIndex (s : State) (lo hi : DWord) : (s.setPair lo hi).freeIndex = s.freeIndex := rfl

/-! ### `setPair1` -/

@[simp] theorem State.setPair1_gpr (s : State) (lo hi : DWord) : (s.setPair1 lo hi).gpr = s.gpr := rfl
@[simp] theorem State.setPair1_pc (s : State) (lo hi : DWord) : (s.setPair1 lo hi).pc = s.pc := rfl
@[simp] theorem State.setPair1_branchPc (s : State) (lo hi : DWord) : (s.setPair1 lo hi).branchPc = s.branchPc := rfl
@[simp] theorem State.setPair1_isBranching (s : State) (lo hi : DWord) : (s.setPair1 lo hi).isBranching = s.isBranching := rfl
@[simp] theorem State.setPair1_delaySlot (s : State) (lo hi : DWord) : (s.setPair1 lo hi).delaySlot = s.delaySlot := rfl
@[simp] theorem State.setPair1_currentInstruction (s : State) (lo hi : DWord) : (s.setPair1 lo hi).currentInstruction = s.currentInstruction := rfl
@[simp] theorem State.setPair1_nextInstruction (s : State) (lo hi : DWord) : (s.setPair1 lo hi).nextInstruction = s.nextInstruction := rfl
@[simp] theorem State.setPair1_hi (s : State) (lo hi : DWord) : (s.setPair1 lo hi).hi = s.hi := rfl
@[simp] theorem State.setPair1_lo (s : State) (lo hi : DWord) : (s.setPair1 lo hi).lo = s.lo := rfl
@[simp] theorem State.setPair1_cop0 (s : State) (lo hi : DWord) : (s.setPair1 lo hi).cop0 = s.cop0 := rfl
@[simp] theorem State.setPair1_mem (s : State) (lo hi : DWord) : (s.setPair1 lo hi).mem = s.mem := rfl
@[simp] theorem State.setPair1_resetDone (s : State) (lo hi : DWord) : (s.setPair1 lo hi).resetDone = s.resetDone := rfl
@[simp] theorem State.setPair1_events (s : State) (lo hi : DWord) : (s.setPair1 lo hi).events = s.events := rfl
@[simp] theorem State.setPair1_freeIndex (s : State) (lo hi : DWord) : (s.setPair1 lo hi).freeIndex = s.freeIndex := rfl

/-! ### `clearZero` -/

@[simp] theorem State.clearZero_pc (s : State) : (s.clearZero).pc = s.pc := rfl
@[simp] theorem State.clearZero_branchPc (s : State) : (s.clearZero).branchPc = s.branchPc := rfl
@[simp] theorem State.clearZero_isBranching (s : State) : (s.clearZero).isBranching = s.isBranching := rfl
@[simp] theorem State.clearZero_delaySlot (s : State) : (s.clearZero).delaySlot = s.delaySlot := rfl
@[simp] theorem State.clearZero_currentInstruction (s : State) : (s.clearZero).currentInstruction = s.currentInstruction := rfl
@[simp] theorem State.clearZero_nextInstruction (s : State) : (s.clearZero).nextInstruction = s.nextInstruction := rfl
@[simp] theorem State.clearZero_hi (s : State) : (s.clearZero).hi = s.hi := rfl
@[simp] theorem State.clearZero_lo (s : State) : (s.clearZero).lo = s.lo := rfl
@[simp] theorem State.clearZero_hi1 (s : State) : (s.clearZero).hi1 = s.hi1 := rfl
@[simp] theorem State.clearZero_lo1 (s : State) : (s.clearZero).lo1 = s.lo1 := rfl
@[simp] theorem State.clearZero_cop0 (s : State) : (s.clearZero).cop0 = s.cop0 := rfl
@[simp] theorem State.clearZero_mem (s : State) : (s.clearZero).mem = s.mem := rfl
@[simp] theorem State.clearZero_resetDone (s : State) : (s.clearZero).resetDone = s.resetDone := rfl
@[simp] theorem State.clearZero_events (s : State) : (s.clearZero).events = s.events := rfl
@[simp] theorem State.clearZero_freeIndex (s : State) : (s.clearZero).freeIndex = s.freeIndex := rfl

/-! ### `tick` -/

@[simp] theorem State.tick_gpr (s : State) : (s.tick).gpr = s.gpr := rfl
@[simp] theorem State.tick_pc (s : State) : (s.tick).pc = s.pc := rfl
@[simp] theorem State.tick_branchPc (s : State) : (s.tick).branchPc = s.branchPc := rfl
@[simp] theorem State.tick_isBranching (s : State) : (s.tick).isBranching = s.isBranching := rfl
@[simp] theorem State.tick_delaySlot (s : State) : (s.tick).delaySlot = s.delaySlot := rfl
@[simp] theorem State.tick_currentInstruction (s : State) : (s.tick).currentInstruction = s.currentInstruction := rfl
@[simp] theorem State.tick_nextInstruction (s : State) : (s.tick).nextInstruction = s.nextInstruction := rfl
@[simp] theorem State.tick_hi (s : State) : (s.tick).hi = s.hi := rfl
@[simp] theorem State.tick_lo (s : State) : (s.tick).lo = s.lo := rfl
@[simp] theorem State.tick_hi1 (s : State) : (s.tick).hi1 = s.hi1 := rfl
@[simp] theorem State.tick_lo1 (s : State) : (s.tick).lo1 = s.lo1 := rfl
@[simp] theorem State.tick_mem (s : State) : (s.tick).mem = s.mem := rfl
@[simp] theorem State.tick_resetDone (s : State) : (s.tick).resetDone = s.resetDone := rfl
@[simp] theorem State.tick_events (s : State) : (s.tick).events = s.events := rfl
@[simp] theorem State.tick_freeIndex (s : State) : (s.tick).freeIndex = s.freeIndex := rfl

@[simp] theorem State.emit_events (s : State) (e : Event) : (s.emit e).events = e :: s.events := rfl
@[simp] theorem State.setPair_lo (s : State) (lo hi : DWord) : (s.setPair lo hi).lo = lo := rfl
@[simp] theorem State.setPair_hi (s : State) (lo hi : DWord) : (s.setPair lo hi).hi = hi := rfl
@[simp] theorem State.setPair1_lo1 (s : State) (lo hi : DWord) : (s.setPair1 lo hi).lo1 = lo := rfl
@[simp] theorem State.setPair1_hi1 (s : State) (lo hi : DWord) : (s.setPair1 lo hi).hi1 = hi := rfl
@[simp] theorem State.clearZero_zero (s : State) : s.clearZero.gpr[0] = 0#128 := by simp [State.clearZero]

/-! ### Registers -/

/-- Registers are read from `gpr` alone. -/
theorem State.reg_congr {s t : State} (h : t.gpr = s.gpr) (r : Reg) : t.reg r = s.reg r := by
  simp [State.reg, h]

theorem State.low_eq (s : State) (r : Reg) : s.low r = (s.reg r).setWidth 64 := rfl
theorem State.word_eq (s : State) (r : Reg) : s.word r = (s.reg r).setWidth 32 := rfl
theorem State.high_eq (s : State) (r : Reg) : s.high r = (s.reg r).extractLsb' 64 64 := rfl

@[simp] theorem State.reg_zero (s : State) : s.reg 0#5 = 0#128 := rfl

/-- A register reads what was last written to it, and `x[0]` reads zero. -/
theorem State.reg_setReg (s : State) (r q : Reg) (v : QWord) :
    (s.setReg r v).reg q = if q = r ∧ r ≠ 0#5 then v else s.reg q := by
  by_cases hr : r = 0#5
  · simp [State.setReg, hr]
  · by_cases hq : q = r
    · subst hq; simp [State.setReg, State.reg, hr]
    · have : r.toNat ≠ q.toNat := fun h => hq (BitVec.eq_of_toNat_eq h.symm)
      simp [State.setReg, State.reg, hr, hq, this]

theorem State.reg_setLow (s : State) (r q : Reg) (v : DWord) :
    (s.setLow r v).reg q = if q = r ∧ r ≠ 0#5 then s.high r ++ v else s.reg q :=
  State.reg_setReg _ _ _ _

@[simp] theorem State.reg_setLow_of_ne (s : State) {r q : Reg} (v : DWord) (h : q ≠ r) :
    (s.setLow r v).reg q = s.reg q := by simp [State.reg_setLow, h]

/-- The low part of two words joined. -/
theorem join_low {m n : Nat} (a : BitVec m) (b : BitVec n) : (a ++ b).setWidth n = b := by
  apply BitVec.eq_of_getLsbD_eq
  intro i hi
  rw [BitVec.getLsbD_setWidth, BitVec.getLsbD_append]
  simp [hi]

/-- The high part of two words joined. -/
theorem join_high {m n : Nat} (a : BitVec m) (b : BitVec n) : (a ++ b).extractLsb' n m = a := by
  apply BitVec.eq_of_getLsbD_eq
  intro i hi
  rw [BitVec.getLsbD_extractLsb', BitVec.getLsbD_append]
  simp [hi]

theorem State.setLow_setWidth (s : State) {r : Reg} (v : DWord) (h : r ≠ 0#5) :
    ((s.setLow r v).reg r).setWidth 64 = v := by
  rw [State.reg_setLow, if_pos ⟨rfl, h⟩]
  exact join_low _ _

theorem State.setLow_upper (s : State) (r q : Reg) (v : DWord) :
    ((s.setLow r v).reg q).extractLsb' 64 64 = (s.reg q).extractLsb' 64 64 := by
  rw [State.reg_setLow]
  split
  · next h =>
    rw [h.1]
    exact join_high _ _
  · rfl

@[simp] theorem State.reg_setSlot (s : State) (n : Reg) (w : Word) (r : Reg) : (s.setSlot n w).reg r = s.reg r := rfl
@[simp] theorem State.reg_setStatus (s : State) (w : Word) (r : Reg) : (s.setStatus w).reg r = s.reg r := rfl
@[simp] theorem State.reg_setCause (s : State) (w : Word) (r : Reg) : (s.setCause w).reg r = s.reg r := rfl
@[simp] theorem State.reg_setEPC (s : State) (w : Word) (r : Reg) : (s.setEPC w).reg r = s.reg r := rfl
@[simp] theorem State.reg_emit (s : State) (e : Event) (r : Reg) : (s.emit e).reg r = s.reg r := rfl
@[simp] theorem State.reg_assertLines (s : State) (w : Word) (r : Reg) : (s.assertLines w).reg r = s.reg r := rfl
@[simp] theorem State.reg_setPair (s : State) (lo hi : DWord) (r : Reg) : (s.setPair lo hi).reg r = s.reg r := rfl
@[simp] theorem State.reg_setPair1 (s : State) (lo hi : DWord) (r : Reg) : (s.setPair1 lo hi).reg r = s.reg r := rfl
@[simp] theorem State.reg_tick (s : State) (r : Reg) : s.tick.reg r = s.reg r := rfl

/-- Clearing the storage of `x[0]` is not observable (`10_state.md` R12). -/
@[simp] theorem State.reg_clearZero (s : State) (r : Reg) : s.clearZero.reg r = s.reg r := by
  by_cases hr : r = 0#5
  · simp [hr]
  · have : 0 ≠ r.toNat := fun h => hr (BitVec.eq_of_toNat_eq h.symm)
    simp [State.clearZero, State.reg, hr, this]

/-! ### Control slots -/

/-- Slots are read from `cop0` alone. -/
theorem State.slot_congr {s t : State} (h : t.cop0 = s.cop0) (n : Reg) : t.slot n = s.slot n := by
  simp [State.slot, h]

/-- A slot reads what was last written to it. -/
theorem State.slot_setSlot (s : State) (n m : Reg) (w : Word) :
    (s.setSlot n w).slot m = if m = n then w else s.slot m := by
  by_cases h : m = n
  · subst h; simp [State.setSlot, State.slot]
  · have : n.toNat ≠ m.toNat := fun h' => h (BitVec.eq_of_toNat_eq h'.symm)
    simp [State.setSlot, State.slot, this, h]

@[simp] theorem State.slot_setSlot_self (s : State) (n : Reg) (w : Word) : (s.setSlot n w).slot n = w := by
  simp [State.slot_setSlot]

theorem State.slot_setSlot_of_ne (s : State) {n m : Reg} (w : Word) (h : m ≠ n) :
    (s.setSlot n w).slot m = s.slot m := by simp [State.slot_setSlot, h]

@[simp] theorem State.slot_setReg (s : State) (r : Reg) (v : QWord) (n : Reg) : (s.setReg r v).slot n = s.slot n :=
  State.slot_congr (State.setReg_cop0 _ _ _) n
@[simp] theorem State.slot_setLow (s : State) (r : Reg) (v : DWord) (n : Reg) : (s.setLow r v).slot n = s.slot n :=
  State.slot_setReg _ _ _ _
@[simp] theorem State.slot_setWord (s : State) (r : Reg) (w : Word) (n : Reg) : (s.setWord r w).slot n = s.slot n :=
  State.slot_setReg _ _ _ _
@[simp] theorem State.slot_emit (s : State) (e : Event) (n : Reg) : (s.emit e).slot n = s.slot n := rfl
@[simp] theorem State.slot_setPair (s : State) (lo hi : DWord) (n : Reg) : (s.setPair lo hi).slot n = s.slot n := rfl
@[simp] theorem State.slot_setPair1 (s : State) (lo hi : DWord) (n : Reg) : (s.setPair1 lo hi).slot n = s.slot n := rfl
@[simp] theorem State.slot_clearZero (s : State) (n : Reg) : s.clearZero.slot n = s.slot n := rfl

/-- `Count` and only `Count` moves when a step is counted. -/
theorem State.slot_tick (s : State) (n : Reg) : s.tick.slot n = if n = 9#5 then s.slot 9#5 + 1#32 else s.slot n :=
  State.slot_setSlot _ _ _ _

theorem State.status_eq (s : State) : s.status = s.slot 12#5 := rfl
theorem State.cause_eq (s : State) : s.cause = s.slot 13#5 := rfl
theorem State.epc_eq (s : State) : s.epc = s.slot 14#5 := rfl
theorem State.count_eq (s : State) : s.count = s.slot 9#5 := rfl

/-- Two states are the same when all their fields are. -/
theorem State.ext_fields {s t : State} (h1 : s.gpr = t.gpr) (h2 : s.pc = t.pc) (h3 : s.branchPc = t.branchPc)
    (h4 : s.isBranching = t.isBranching) (h5 : s.delaySlot = t.delaySlot)
    (h6 : s.currentInstruction = t.currentInstruction) (h7 : s.nextInstruction = t.nextInstruction)
    (h8 : s.hi = t.hi) (h9 : s.lo = t.lo) (h10 : s.hi1 = t.hi1) (h11 : s.lo1 = t.lo1) (h12 : s.cop0 = t.cop0)
    (h13 : s.mem = t.mem) (h14 : s.resetDone = t.resetDone) (h15 : s.events = t.events)
    (h16 : s.freeIndex = t.freeIndex) : s = t := by
  cases s; cases t; simp_all

end Sys2Proof.Machine
end

