-- ==== Sys2Proof/Laws/Ops.lean ====
section
/-! SUPPORT. What the shared operations of Ops.lean do, once each: the choice of the next `pc`, the register write, the
bus primitives, the parts of taking an exception. The meanings cite these lemmas instead of unfolding the
operations. -/

namespace Sys2Proof.Machine

open Sys2Proof.Claims

/-! ### Outcome Next -/

theorem finish_next (s : State) : s.finish .next = .next s.advance := rfl
theorem finish_exception (s : State) (code : ExcCode) : s.finish (.exception code) = .next (s.takeException code) := rfl

@[simp] theorem State.advance_gpr (s : State) : (s.advance).gpr = s.gpr :=
  by unfold State.advance; split <;> rfl
@[simp] theorem State.advance_branchPc (s : State) : (s.advance).branchPc = s.branchPc :=
  by unfold State.advance; split <;> rfl
@[simp] theorem State.advance_currentInstruction (s : State) : (s.advance).currentInstruction = s.currentInstruction :=
  by unfold State.advance; split <;> rfl
@[simp] theorem State.advance_nextInstruction (s : State) : (s.advance).nextInstruction = s.nextInstruction :=
  by unfold State.advance; split <;> rfl
@[simp] theorem State.advance_hi (s : State) : (s.advance).hi = s.hi :=
  by unfold State.advance; split <;> rfl
@[simp] theorem State.advance_lo (s : State) : (s.advance).lo = s.lo :=
  by unfold State.advance; split <;> rfl
@[simp] theorem State.advance_hi1 (s : State) : (s.advance).hi1 = s.hi1 :=
  by unfold State.advance; split <;> rfl
@[simp] theorem State.advance_lo1 (s : State) : (s.advance).lo1 = s.lo1 :=
  by unfold State.advance; split <;> rfl
@[simp] theorem State.advance_cop0 (s : State) : (s.advance).cop0 = s.cop0 :=
  by unfold State.advance; split <;> rfl
@[simp] theorem State.advance_mem (s : State) : (s.advance).mem = s.mem :=
  by unfold State.advance; split <;> rfl
@[simp] theorem State.advance_resetDone (s : State) : (s.advance).resetDone = s.resetDone :=
  by unfold State.advance; split <;> rfl
@[simp] theorem State.advance_events (s : State) : (s.advance).events = s.events :=
  by unfold State.advance; split <;> rfl
@[simp] theorem State.advance_freeIndex (s : State) : (s.advance).freeIndex = s.freeIndex :=
  by unfold State.advance; split <;> rfl

@[simp] theorem State.reg_advance (s : State) (r : Reg) : s.advance.reg r = s.reg r :=
  State.reg_congr (State.advance_gpr s) r
@[simp] theorem State.slot_advance (s : State) (n : Reg) : s.advance.slot n = s.slot n :=
  State.slot_congr (State.advance_cop0 s) n

/-- Outcome Next leaves the controller in Normal. -/
theorem State.advance_isBranching (s : State) : s.advance.isBranching = false := by
  unfold State.advance
  split
  · rfl
  · next h => simpa using h

/-- Outcome Next, for a state whose `pc` and branch state are still those of the step's start. -/
theorem nextPc_advance {s u : State} (h : SamePc s u) : NextPc s u.advance := by
  obtain ⟨h1, h2, h3, h4⟩ := h
  refine ⟨fun hb => ?_, fun hb => ?_, ?_⟩
  · simp [State.advance, h1, h3, h4, hb]
  · simp [State.advance, h2, h3, hb]
  · rw [State.advance_branchPc, h2]

/-- The bookkeeping of the choice of `pc` keeps what the effects left. -/
theorem sameGpr_advance {s u : State} (h : SameGpr s u) : SameGpr s u.advance := fun r => by simpa using h r
theorem samePairs_advance {s u : State} (h : SamePairs s u) : SamePairs s u.advance := by simpa [SamePairs] using h
theorem sameSlots_advance {s u : State} (h : SameSlots s u) : SameSlots s u.advance := fun n => by simpa using h n
theorem sameSlotsBut_advance {c : List Reg} {s u : State} (h : SameSlotsBut c s u) : SameSlotsBut c s u.advance :=
  fun n hn => by simpa using h n hn
theorem sameMem_advance {s u : State} (h : SameMem s u) : SameMem s u.advance := fun a => by simpa using h a
theorem samePorts_advance {s u : State} (h : SamePorts s u) : SamePorts s u.advance := by simpa [SamePorts] using h
theorem sameLatches_advance {s u : State} (h : SameLatches s u) : SameLatches s u.advance := by
  simpa [SameLatches] using h

theorem sameGpr_refl (s : State) : SameGpr s s := fun _ => rfl
theorem samePairs_refl (s : State) : SamePairs s s := ⟨rfl, rfl, rfl, rfl⟩
theorem sameSlots_refl (s : State) : SameSlots s s := fun _ => rfl
theorem sameMem_refl (s : State) : SameMem s s := fun _ => rfl
theorem samePc_refl (s : State) : SamePc s s := ⟨rfl, rfl, rfl, rfl⟩
theorem samePorts_refl (s : State) : SamePorts s s := ⟨rfl, rfl⟩
theorem sameLatches_refl (s : State) : SameLatches s s := ⟨rfl, rfl, rfl⟩

/-! ### The 64-bit register write -/

theorem wroteLow_setLow (s : State) (d : Reg) (v : DWord) : WroteLow d v s (s.setLow d v) where
  value h := State.setLow_setWidth s v h
  upper _ := State.setLow_upper s d d v
  zero := State.reg_zero _
  others _ h := State.reg_setLow_of_ne s v h

theorem wroteLow_advance {d : Reg} {v : DWord} {s u : State} (h : WroteLow d v s u) : WroteLow d v s u.advance where
  value hd := by simpa using h.value hd
  upper hd := by simpa using h.upper hd
  zero := State.reg_zero _
  others r hr := by simpa using h.others r hr

/-- An instruction whose meaning is one 64-bit write and outcome Next. -/
theorem completesWithLow {i : Instr} {s : State} {d : Reg} {v : DWord} (h : exec i s = (s.setLow d v).finish .next) :
    CompletesWithLow i s d v :=
  ⟨_, h, nextPc_advance ⟨by simp, by simp, by simp, by simp⟩, wroteLow_advance (wroteLow_setLow s d v),
    by simp [SamePairs], fun n => by simp, fun a => by simp, by simp [SamePorts], by simp [SameLatches]⟩

/-- An instruction whose meaning is outcome Next alone. -/
theorem completesWithNothing {i : Instr} {s : State} (h : exec i s = s.finish .next) : CompletesWithNothing i s :=
  ⟨_, h, nextPc_advance (samePc_refl s), fun r => by simp, by simp [SamePairs], fun n => by simp, fun a => by simp,
    by simp [SamePorts], by simp [SameLatches]⟩

/-! ### Slots of an update of `Status`, `Cause`, `EPC` -/

theorem State.slot_setStatus (s : State) (w : Word) (n : Reg) :
    (s.setStatus w).slot n = if n = 12#5 then w else s.slot n := State.slot_setSlot _ _ _ _
theorem State.slot_setCause (s : State) (w : Word) (n : Reg) :
    (s.setCause w).slot n = if n = 13#5 then w else s.slot n := State.slot_setSlot _ _ _ _
theorem State.slot_setEPC (s : State) (w : Word) (n : Reg) :
    (s.setEPC w).slot n = if n = 14#5 then w else s.slot n := State.slot_setSlot _ _ _ _
theorem State.slot_assertLines (s : State) (w : Word) (n : Reg) :
    (s.assertLines w).slot n = if n = 13#5 then s.slot 13#5 ||| w else s.slot n := State.slot_setSlot _ _ _ _

/-! ### Interrupt lines asserted by an access -/

theorem linesMask_and (lines : BitVec 3) : linesMask lines &&& 0x00008C00#32 = linesMask lines := by
  revert lines
  decide

/-! ### Peripheral accesses -/

@[simp] theorem State.peripheralRead_gpr (s : State) (k : Peripheral) (p : PAddr) (w : Width) :
    (s.peripheralRead k p w).2.gpr = s.gpr := rfl
@[simp] theorem State.peripheralRead_pc (s : State) (k : Peripheral) (p : PAddr) (w : Width) :
    (s.peripheralRead k p w).2.pc = s.pc := rfl
@[simp] theorem State.peripheralRead_branchPc (s : State) (k : Peripheral) (p : PAddr) (w : Width) :
    (s.peripheralRead k p w).2.branchPc = s.branchPc := rfl
@[simp] theorem State.peripheralRead_isBranching (s : State) (k : Peripheral) (p : PAddr) (w : Width) :
    (s.peripheralRead k p w).2.isBranching = s.isBranching := rfl
@[simp] theorem State.peripheralRead_delaySlot (s : State) (k : Peripheral) (p : PAddr) (w : Width) :
    (s.peripheralRead k p w).2.delaySlot = s.delaySlot := rfl
@[simp] theorem State.peripheralRead_currentInstruction (s : State) (k : Peripheral) (p : PAddr) (w : Width) :
    (s.peripheralRead k p w).2.currentInstruction = s.currentInstruction := rfl
@[simp] theorem State.peripheralRead_nextInstruction (s : State) (k : Peripheral) (p : PAddr) (w : Width) :
    (s.peripheralRead k p w).2.nextInstruction = s.nextInstruction := rfl
@[simp] theorem State.peripheralRead_hi (s : State) (k : Peripheral) (p : PAddr) (w : Width) :
    (s.peripheralRead k p w).2.hi = s.hi := rfl
@[simp] theorem State.peripheralRead_lo (s : State) (k : Peripheral) (p : PAddr) (w : Width) :
    (s.peripheralRead k p w).2.lo = s.lo := rfl
@[simp] theorem State.peripheralRead_hi1 (s : State) (k : Peripheral) (p : PAddr) (w : Width) :
    (s.peripheralRead k p w).2.hi1 = s.hi1 := rfl
@[simp] theorem State.peripheralRead_lo1 (s : State) (k : Peripheral) (p : PAddr) (w : Width) :
    (s.peripheralRead k p w).2.lo1 = s.lo1 := rfl
@[simp] theorem State.peripheralRead_mem (s : State) (k : Peripheral) (p : PAddr) (w : Width) :
    (s.peripheralRead k p w).2.mem = s.mem := rfl
@[simp] theorem State.peripheralRead_resetDone (s : State) (k : Peripheral) (p : PAddr) (w : Width) :
    (s.peripheralRead k p w).2.resetDone = s.resetDone := rfl

@[simp] theorem State.peripheralWrite_gpr (s : State) (k : Peripheral) (p : PAddr) (w : Width) (v : QWord) :
    (s.peripheralWrite k p w v).gpr = s.gpr := rfl
@[simp] theorem State.peripheralWrite_pc (s : State) (k : Peripheral) (p : PAddr) (w : Width) (v : QWord) :
    (s.peripheralWrite k p w v).pc = s.pc := rfl
@[simp] theorem State.peripheralWrite_branchPc (s : State) (k : Peripheral) (p : PAddr) (w : Width) (v : QWord) :
    (s.peripheralWrite k p w v).branchPc = s.branchPc := rfl
@[simp] theorem State.peripheralWrite_isBranching (s : State) (k : Peripheral) (p : PAddr) (w : Width) (v : QWord) :
    (s.peripheralWrite k p w v).isBranching = s.isBranching := rfl
@[simp] theorem State.peripheralWrite_delaySlot (s : State) (k : Peripheral) (p : PAddr) (w : Width) (v : QWord) :
    (s.peripheralWrite k p w v).delaySlot = s.delaySlot := rfl
@[simp] theorem State.peripheralWrite_currentInstruction (s : State) (k : Peripheral) (p : PAddr) (w : Width) (v : QWord) :
    (s.peripheralWrite k p w v).currentInstruction = s.currentInstruction := rfl
@[simp] theorem State.peripheralWrite_nextInstruction (s : State) (k : Peripheral) (p : PAddr) (w : Width) (v : QWord) :
    (s.peripheralWrite k p w v).nextInstruction = s.nextInstruction := rfl
@[simp] theorem State.peripheralWrite_hi (s : State) (k : Peripheral) (p : PAddr) (w : Width) (v : QWord) :
    (s.peripheralWrite k p w v).hi = s.hi := rfl
@[simp] theorem State.peripheralWrite_lo (s : State) (k : Peripheral) (p : PAddr) (w : Width) (v : QWord) :
    (s.peripheralWrite k p w v).lo = s.lo := rfl
@[simp] theorem State.peripheralWrite_hi1 (s : State) (k : Peripheral) (p : PAddr) (w : Width) (v : QWord) :
    (s.peripheralWrite k p w v).hi1 = s.hi1 := rfl
@[simp] theorem State.peripheralWrite_lo1 (s : State) (k : Peripheral) (p : PAddr) (w : Width) (v : QWord) :
    (s.peripheralWrite k p w v).lo1 = s.lo1 := rfl
@[simp] theorem State.peripheralWrite_mem (s : State) (k : Peripheral) (p : PAddr) (w : Width) (v : QWord) :
    (s.peripheralWrite k p w v).mem = s.mem := rfl
@[simp] theorem State.peripheralWrite_resetDone (s : State) (k : Peripheral) (p : PAddr) (w : Width) (v : QWord) :
    (s.peripheralWrite k p w v).resetDone = s.resetDone := rfl

@[simp] theorem State.reg_peripheralRead (s : State) (k : Peripheral) (p : PAddr) (w : Width) (r : Reg) :
    (s.peripheralRead k p w).2.reg r = s.reg r := rfl
@[simp] theorem State.reg_peripheralWrite (s : State) (k : Peripheral) (p : PAddr) (w : Width) (v : QWord) (r : Reg) :
    (s.peripheralWrite k p w v).reg r = s.reg r := rfl
theorem State.events_peripheralRead (s : State) (k : Peripheral) (p : PAddr) (w : Width) :
    (s.peripheralRead k p w).2.events = .peripheralRead k p w (s.peripheralRead k p w).1 :: s.events := rfl
theorem State.events_peripheralWrite (s : State) (k : Peripheral) (p : PAddr) (w : Width) (v : QWord) :
    (s.peripheralWrite k p w v).events = .peripheralWrite k p w ((lowBytes w v).setWidth 64) :: s.events := rfl

/-- A read of a collaborator changes no slot but `Cause`, and there only pending bits, which it sets. -/
theorem State.slot_peripheralRead (s : State) (k : Peripheral) (p : PAddr) (w : Width) :
    ∃ lines : Word, lines &&& 0x00008C00#32 = lines ∧ ∀ n,
      (s.peripheralRead k p w).2.slot n = if n = 13#5 then s.slot 13#5 ||| lines else s.slot n :=
  ⟨_, linesMask_and _, fun n => State.slot_assertLines _ _ n⟩

/-- So does a write to one. -/
theorem State.slot_peripheralWrite (s : State) (k : Peripheral) (p : PAddr) (w : Width) (v : QWord) :
    ∃ lines : Word, lines &&& 0x00008C00#32 = lines ∧ ∀ n,
      (s.peripheralWrite k p w v).slot n = if n = 13#5 then s.slot 13#5 ||| lines else s.slot n :=
  ⟨_, linesMask_and _, fun n => State.slot_assertLines _ _ n⟩

/-- An answer has the width of its access. -/
theorem State.toNat_peripheralRead_lt (s : State) (k : Peripheral) (p : PAddr) {w : Width} (hw : w ≠ .quad) :
    (s.peripheralRead k p w).1.toNat < 2 ^ (8 * widthBytes w) := by
  unfold State.peripheralRead
  simp only
  generalize Config.peripheralAnswer s.freeIndex s.events k p w = a
  cases w with
  | quad => exact absurd rfl hw
  | _ => simp only [lowBytes, widthBytes, BitVec.toNat_setWidth, Nat.reduceMul, Nat.reducePow]; omega

/-! ### The bus primitives: what they leave alone -/

/-- What an access leaves alone, whatever its target: everything but memory, the ports and pending bits. -/
structure BusFrame (s t : State) : Prop where
  gpr : t.gpr = s.gpr
  pcs : SamePc s t
  pairs : SamePairs s t
  latches : SameLatches s t
  slots : SameSlotsBut [13#5] s t
  cause : OnlyLinesAsserted s.cause t.cause

theorem BusFrame.refl (s : State) : BusFrame s s :=
  ⟨rfl, samePc_refl s, samePairs_refl s, sameLatches_refl s, fun _ _ => rfl, 0#32, by decide, by simp⟩

theorem BusFrame.trans {s t u : State} (h : BusFrame s t) (h' : BusFrame t u) : BusFrame s u := by
  obtain ⟨g, ⟨p1, p2, p3, p4⟩, ⟨q1, q2, q3, q4⟩, ⟨l1, l2, l3⟩, sl, ⟨a, ha, hc⟩⟩ := h
  obtain ⟨g', ⟨p1', p2', p3', p4'⟩, ⟨q1', q2', q3', q4'⟩, ⟨l1', l2', l3'⟩, sl', ⟨b, hb, hc'⟩⟩ := h'
  refine ⟨g'.trans g, ⟨p1'.trans p1, p2'.trans p2, p3'.trans p3, p4'.trans p4⟩,
    ⟨q1'.trans q1, q2'.trans q2, q3'.trans q3, q4'.trans q4⟩, ⟨l1'.trans l1, l2'.trans l2, l3'.trans l3⟩,
    fun n hn => (sl' n hn).trans (sl n hn), a ||| b, ?_, ?_⟩
  · rw [BitVec.and_comm, BitVec.and_or_distrib_left, BitVec.and_comm _ a, BitVec.and_comm _ b, ha, hb]
  · rw [hc', hc, BitVec.or_assoc]

theorem busFrame_of_slots {s t : State} (hg : t.gpr = s.gpr) (hp : SamePc s t) (hq : SamePairs s t)
    (hl : SameLatches s t) {lines : Word} (h : lines &&& 0x00008C00#32 = lines)
    (hs : ∀ n, t.slot n = if n = 13#5 then s.slot 13#5 ||| lines else s.slot n) : BusFrame s t :=
  ⟨hg, hp, hq, hl, fun n hn => by rw [hs, if_neg (by simpa using hn)], lines, h, by
    rw [State.cause_eq, State.cause_eq, hs, if_pos rfl]⟩

theorem State.busFrame_peripheralRead (s : State) (k : Peripheral) (p : PAddr) (w : Width) :
    BusFrame s (s.peripheralRead k p w).2 :=
  let ⟨_, h, hs⟩ := s.slot_peripheralRead k p w
  busFrame_of_slots rfl ⟨rfl, rfl, rfl, rfl⟩ ⟨rfl, rfl, rfl, rfl⟩ ⟨rfl, rfl, rfl⟩ h hs

theorem State.busFrame_peripheralWrite (s : State) (k : Peripheral) (p : PAddr) (w : Width) (v : QWord) :
    BusFrame s (s.peripheralWrite k p w v) :=
  let ⟨_, h, hs⟩ := s.slot_peripheralWrite k p w v
  busFrame_of_slots rfl ⟨rfl, rfl, rfl, rfl⟩ ⟨rfl, rfl, rfl, rfl⟩ ⟨rfl, rfl, rfl⟩ h hs

theorem State.busFrame_emit (s : State) (e : Event) : BusFrame s (s.emit e) :=
  ⟨rfl, ⟨rfl, rfl, rfl, rfl⟩, ⟨rfl, rfl, rfl, rfl⟩, ⟨rfl, rfl, rfl⟩, fun _ _ => rfl, 0#32, by decide, by
    simp [State.cause_eq]⟩

theorem State.busFrame_memRead (s : State) (w : Width) (va : VAddr) : BusFrame s (s.memRead w va).2 := by
  unfold State.memRead
  split
  · exact BusFrame.refl s
  · next k p _ =>
    have h1 := s.busFrame_peripheralRead k p .double
    have h2 := (s.peripheralRead k p .double).2.busFrame_peripheralRead k (p + 8#29) .double
    split
    · exact h1.trans h2
    · exact s.busFrame_peripheralRead k p w
  · exact s.busFrame_emit _

theorem State.busFrame_setMem (s : State) (m : Memory) : BusFrame s { s with mem := m } :=
  ⟨rfl, ⟨rfl, rfl, rfl, rfl⟩, ⟨rfl, rfl, rfl, rfl⟩, ⟨rfl, rfl, rfl⟩, fun _ _ => rfl, 0#32, by decide, by
    rw [BitVec.or_zero]
    exact State.slot_congr rfl _⟩

/-- A store to a byte array other than boot ROM changes memory alone (R42). -/
theorem State.memWrite_array {s : State} {w : Width} {va : VAddr} {r : Region} {o : Nat} (v : QWord)
    (h : route va = .array r o) (hr : r ≠ .bootRom) :
    s.memWrite w va v = { s with mem := s.mem.writeLE (cellOf r o) v (widthBytes w) } := by
  unfold State.memWrite
  rw [h]
  cases r with
  | bootRom => exact absurd rfl hr
  | _ => rfl

/-- A store to boot ROM is dropped and reported (R49). -/
theorem State.memWrite_rom {s : State} {w : Width} {va : VAddr} {o : Nat} (v : QWord)
    (h : route va = .array .bootRom o) :
    s.memWrite w va v = s.emit (.romWrite (BitVec.ofNat 29 (cellOf .bootRom o)) w) := by
  unfold State.memWrite
  rw [h]

theorem State.busFrame_memWrite (s : State) (w : Width) (va : VAddr) (v : QWord) : BusFrame s (s.memWrite w va v) := by
  cases h : route va with
  | array r o =>
    by_cases hr : r = .bootRom
    · subst hr
      rw [State.memWrite_rom v h]
      exact s.busFrame_emit _
    · rw [State.memWrite_array v h hr]
      exact s.busFrame_setMem _
  | peripheral k p =>
    have h1 := s.busFrame_peripheralWrite k p .double v
    have h2 := (s.peripheralWrite k p .double v).busFrame_peripheralWrite k (p + 8#29) .double (v >>> 64)
    unfold State.memWrite
    rw [h]
    simp only
    split
    · exact h1.trans h2
    · exact s.busFrame_peripheralWrite k p w v
  | busError p =>
    unfold State.memWrite
    rw [h]
    exact s.busFrame_emit _

/-- A read changes no byte of memory (R41). -/
@[simp] theorem State.memRead_mem (s : State) (w : Width) (va : VAddr) : (s.memRead w va).2.mem = s.mem := by
  unfold State.memRead
  split
  · rfl
  · split
    · simp only [State.peripheralRead_mem]
    · simp only [State.peripheralRead_mem]
  · simp only [State.emit_mem]

/-! ### What they do -/

/-- The little-endian value of R41, as the statements write it, is the one the machine assembles. -/
theorem leValue_succ (m : Memory) (a n : Nat) : leValue m a (n + 1) = (m.read a).toNat + 256 * leValue m (a + 1) n := by
  induction n with
  | zero => simp [leValue]
  | succ n ih =>
    have e : 2 ^ (8 * (n + 1)) = 256 * 2 ^ (8 * n) := by
      rw [show 8 * (n + 1) = 8 + 8 * n by omega, Nat.pow_add]
    rw [leValue, ih, leValue, show a + (n + 1) = a + 1 + n by omega, e]
    ring

theorem toNat_readLE (m : Memory) (a n : Nat) (h : n ≤ 16) : (m.readLE a n).toNat = leValue m a n := by
  induction n generalizing a with
  | zero => rfl
  | succ n ih =>
    rw [leValue_succ, Memory.toNat_readLE_succ _ _ _ (by omega) (Memory.toNat_readLE_lt _ _ _ (by omega)),
      ih (a + 1) (by omega)]

/-- Two 64-bit halves as one number. -/
theorem toNat_join (hi lo : DWord) : (hi ++ lo : BitVec (64 + 64)).toNat = lo.toNat + hi.toNat * 2 ^ 64 := by
  have := lo.isLt
  rw [BitVec.toNat_append, ← Nat.shiftLeft_add_eq_or_of_lt (by omega), Nat.shiftLeft_eq]
  omega

theorem widthBytes_le (w : Width) : widthBytes w ≤ 16 := by cases w <;> decide

/-- `MemRead` is what R41 and R52 to R54 say it is. -/
theorem State.readsBus_memRead (s : State) (w : Width) (va : VAddr) :
    ReadsBus s (s.memRead w va).2 w (widthBytes w) va (s.memRead w va).1.toNat where
  array r o h := by
    unfold State.memRead
    rw [h]
    exact ⟨toNat_readLE _ _ _ (widthBytes_le w), rfl, rfl⟩
  noTarget p h := by
    unfold State.memRead
    rw [h]
    exact ⟨rfl, rfl, rfl⟩
  peripheral k p h hw := by
    have hlt := s.toNat_peripheralRead_lt k p hw
    have h64 := (s.peripheralRead k p w).1.isLt
    have hc := (s.busFrame_peripheralRead k p w).cause
    refine ⟨(s.peripheralRead k p w).1, ?_⟩
    have e : s.memRead w va = ((s.peripheralRead k p w).1.setWidth 128, (s.peripheralRead k p w).2) := by
      unfold State.memRead
      rw [h]
      cases w with
      | quad => exact absurd rfl hw
      | _ => rfl
    have e1 : ((s.peripheralRead k p w).1.setWidth 128).toNat = (s.peripheralRead k p w).1.toNat := by
      rw [BitVec.toNat_setWidth]
      omega
    rw [e]
    exact ⟨e1, e1 ▸ hlt, s.events_peripheralRead k p w, hc⟩
  peripheralQuad k p h hw := by
    subst hw
    have h1 := s.busFrame_peripheralRead k p .double
    have h2 := (s.peripheralRead k p .double).2.busFrame_peripheralRead k (p + 8#29) .double
    have e1 := s.events_peripheralRead k p .double
    have e2 := (s.peripheralRead k p .double).2.events_peripheralRead k (p + 8#29) .double
    refine ⟨(s.peripheralRead k p .double).1, ((s.peripheralRead k p .double).2.peripheralRead k (p + 8#29) .double).1,
      ?_⟩
    unfold State.memRead
    rw [h]
    refine ⟨?_, e2.trans (by rw [e1]), (h1.trans h2).cause⟩
    exact toNat_join _ _

/-- The value a `writeN` carries. -/
theorem setWidth_lowBytes (v : QWord) {w : Width} (hw : w ≠ .quad) :
    (lowBytes w v).setWidth 64 = BitVec.ofNat 64 (v.toNat % 2 ^ (8 * widthBytes w)) := by
  apply BitVec.eq_of_toNat_eq
  cases w with
  | quad => exact absurd rfl hw
  | _ =>
    simp only [lowBytes, widthBytes, BitVec.toNat_setWidth, BitVec.toNat_ofNat, Nat.reduceMul]
    omega

/-- `MemWrite` is what R42, R49 and R52 to R54 say it is, in a memory of canonical form. -/
theorem State.writesBus_memWrite {s : State} (hm : s.mem.wf) (w : Width) (va : VAddr) (v : QWord) :
    WritesBus s (s.memWrite w va v) w (widthBytes w) va v.toNat where
  arrayStored r o h hr k hk := by
    rw [State.memWrite_array v h hr]
    exact Memory.read_writeLE_inside hm _ _ _ _ hk
  arrayOthers r o h hr a ha := by
    rw [State.memWrite_array v h hr]
    exact Memory.read_writeLE_outside _ _ _ _ ha
  arrayPorts r o h hr := by
    rw [State.memWrite_array v h hr]
    exact ⟨rfl, State.slot_congr rfl _⟩
  rom o h := by
    rw [State.memWrite_rom v h]
    exact ⟨fun _ => rfl, rfl, rfl⟩
  noTarget p h := by
    unfold State.memWrite
    rw [h]
    exact ⟨fun _ => rfl, rfl, rfl⟩
  peripheral k p h hw := by
    have hc := (s.busFrame_peripheralWrite k p w v).cause
    have e : s.memWrite w va v = s.peripheralWrite k p w v := by
      unfold State.memWrite
      rw [h]
      cases w with
      | quad => exact absurd rfl hw
      | _ => rfl
    rw [e]
    refine ⟨fun a => by rw [State.peripheralWrite_mem], (s.events_peripheralWrite k p w v).trans ?_, hc⟩
    rw [setWidth_lowBytes v hw]
  peripheralQuad k p h hw := by
    subst hw
    have h1 := s.busFrame_peripheralWrite k p .double v
    have h2 := (s.peripheralWrite k p .double v).busFrame_peripheralWrite k (p + 8#29) .double (v >>> 64)
    have e1 := s.events_peripheralWrite k p .double v
    have e2 := (s.peripheralWrite k p .double v).events_peripheralWrite k (p + 8#29) .double (v >>> 64)
    have hv := v.isLt
    unfold State.memWrite
    rw [h]
    refine ⟨fun a => by simp only [State.peripheralWrite_mem], e2.trans ?_, (h1.trans h2).cause⟩
    rw [e1, setWidth_lowBytes v (by decide), setWidth_lowBytes (v >>> 64) (by decide), BitVec.toNat_ushiftRight,
      Nat.shiftRight_eq_div_pow]
    congr 2
    · apply BitVec.eq_of_toNat_eq
      simp only [widthBytes, BitVec.toNat_ofNat, Nat.reduceMul]
      omega
    · congr 1
      apply BitVec.eq_of_toNat_eq
      simp only [widthBytes, BitVec.toNat_ofNat, Nat.reduceMul]
      omega

/-! ### Taking an exception -/

@[simp] theorem State.takeException_gpr (s : State) (code : ExcCode) : (s.takeException code).gpr = s.gpr := by
  unfold State.takeException State.raise; split <;> rfl
@[simp] theorem State.takeException_branchPc (s : State) (code : ExcCode) : (s.takeException code).branchPc = s.branchPc := by
  unfold State.takeException State.raise; split <;> rfl
@[simp] theorem State.takeException_currentInstruction (s : State) (code : ExcCode) : (s.takeException code).currentInstruction = s.currentInstruction := by
  unfold State.takeException State.raise; split <;> rfl
@[simp] theorem State.takeException_nextInstruction (s : State) (code : ExcCode) : (s.takeException code).nextInstruction = s.nextInstruction := by
  unfold State.takeException State.raise; split <;> rfl
@[simp] theorem State.takeException_hi (s : State) (code : ExcCode) : (s.takeException code).hi = s.hi := by
  unfold State.takeException State.raise; split <;> rfl
@[simp] theorem State.takeException_lo (s : State) (code : ExcCode) : (s.takeException code).lo = s.lo := by
  unfold State.takeException State.raise; split <;> rfl
@[simp] theorem State.takeException_hi1 (s : State) (code : ExcCode) : (s.takeException code).hi1 = s.hi1 := by
  unfold State.takeException State.raise; split <;> rfl
@[simp] theorem State.takeException_lo1 (s : State) (code : ExcCode) : (s.takeException code).lo1 = s.lo1 := by
  unfold State.takeException State.raise; split <;> rfl
@[simp] theorem State.takeException_mem (s : State) (code : ExcCode) : (s.takeException code).mem = s.mem := by
  unfold State.takeException State.raise; split <;> rfl
@[simp] theorem State.takeException_resetDone (s : State) (code : ExcCode) : (s.takeException code).resetDone = s.resetDone := by
  unfold State.takeException State.raise; split <;> rfl
@[simp] theorem State.takeException_events (s : State) (code : ExcCode) : (s.takeException code).events = s.events := by
  unfold State.takeException State.raise; split <;> rfl
@[simp] theorem State.takeException_freeIndex (s : State) (code : ExcCode) : (s.takeException code).freeIndex = s.freeIndex := by
  unfold State.takeException State.raise; split <;> rfl

@[simp] theorem State.reg_takeException (s : State) (code : ExcCode) (r : Reg) :
    (s.takeException code).reg r = s.reg r := State.reg_congr (State.takeException_gpr s code) r
@[simp] theorem State.takeException_isBranching (s : State) (code : ExcCode) :
    (s.takeException code).isBranching = false := rfl
@[simp] theorem State.takeException_delaySlot (s : State) (code : ExcCode) :
    (s.takeException code).delaySlot = 0 := rfl

/-- The slots after an exception taken with `Status.EXL` set: the code is recorded, nothing is saved (R310). -/
theorem State.slot_takeException_nested {s : State} (h : statusEXL s.status = true) (code : ExcCode) (n : Reg) :
    (s.takeException code).slot n =
      if n = 13#5 then setCauseExcCode (excNumber code) s.cause else s.slot n := by
  have : (s.takeException code).cop0 = (s.setCause (setCauseExcCode (excNumber code) s.cause)).cop0 := by
    unfold State.takeException State.raise
    simp only [h, if_true]
  rw [State.slot_congr this, State.slot_setCause]

/-- The slots after an exception taken with `Status.EXL` clear (R300). -/
theorem State.slot_takeException {s : State} (h : statusEXL s.status = false) (code : ExcCode) (n : Reg) :
    (s.takeException code).slot n =
      if n = 12#5 then setStatusEXL s.status
      else if n = 13#5 then setCauseBD s.isBranching (setCauseExcCode (excNumber code) s.cause)
      else if n = 14#5 then (if s.isBranching then s.pc - 4#32 else s.pc)
      else s.slot n := by
  unfold State.takeException State.raise
  simp only [h, Bool.false_eq_true, if_false]
  show State.slot (State.setStatus _ _) n = _
  rw [State.slot_setStatus, State.slot_setCause, State.slot_setEPC, State.slot_setCause]
  simp only [State.status_eq, State.cause_eq, State.slot_setCause, State.slot_setEPC]
  by_cases h12 : n = 12#5
  · subst h12; simp
  · by_cases h13 : n = 13#5
    · subst h13; simp
    · simp [h12, h13]

/-- Where an exception goes (R302, R303). -/
theorem State.takeException_pc (s : State) (code : ExcCode) :
    (s.takeException code).pc =
      vectorBase s.status + (if statusEXL s.status then Config.vecCommon else vectorOffset code) := by
  unfold State.takeException State.raise
  split <;> simp_all

end Sys2Proof.Machine
end

