-- ==== Sys2Proof/Laws/Exec.lean ====
section
/-! SUPPORT. What `exec` and `step` can do at all, said once: `exec_effect` for an instruction, `step_effect` for a
step. A lemma about every step cites these and looks at no instruction. -/

namespace Sys2Proof.Machine

open Sys2Proof.Claims

/-! ### Addresses: alignment, and the block of 16 bytes -/

/-- The alignment check as a remainder (R56). -/
theorem aligned_iff (w : Width) (ea : VAddr) : aligned w ea = true ↔ ea.toNat % widthBytes w = 0 := by
  have key : ∀ k, (ea.extractLsb' 0 k == 0#k) = true ↔ ea.toNat % 2 ^ k = 0 := by
    intro k
    rw [beq_iff_eq, ← BitVec.toNat_inj, BitVec.extractLsb'_toNat]
    simp
  cases w
  · simp [aligned, widthBytes]
    omega
  · exact key 1
  · exact key 2
  · exact key 3
  · exact key 4

theorem toNat_wordOffset (ea : VAddr) : (wordOffset ea).toNat = ea.toNat % 4 := by
  simp [wordOffset, BitVec.extractLsb'_toNat]

theorem toNat_doubleOffset (ea : VAddr) : (doubleOffset ea).toNat = ea.toNat % 8 := by
  simp [doubleOffset, BitVec.extractLsb'_toNat]

/-- The enclosing aligned word (R160). -/
theorem toNat_wordBase (ea : VAddr) : (wordBase ea).toNat = ea.toNat - ea.toNat % 4 := by
  have := ea.isLt
  rw [wordBase, BitVec.toNat_sub, BitVec.toNat_setWidth, toNat_wordOffset]
  omega

/-- The enclosing aligned doubleword (R160). -/
theorem toNat_doubleBase (ea : VAddr) : (doubleBase ea).toNat = ea.toNat - ea.toNat % 8 := by
  have := ea.isLt
  rw [doubleBase, BitVec.toNat_sub, BitVec.toNat_setWidth, toNat_doubleOffset]
  omega

/-- The physical address of R45 and R47, as a number. -/
theorem toNat_physicalAddress (va : VAddr) : (physicalAddress va).toNat = physicalNumber va.toNat := by
  have := va.isLt
  have key : ∀ a : VAddr, (a.extractLsb' 0 29).toNat = a.toNat % 2 ^ 29 := fun a => by
    rw [BitVec.extractLsb'_toNat, Nat.shiftRight_zero]
  by_cases h : Config.ucabLo ≤ va.toNat ∧ va.toNat ≤ Config.ucabHi
  · have e : physicalAddress va = (va - Config.ucabOffset).extractLsb' 0 29 := by
      unfold physicalAddress
      rw [if_pos h]
    rw [e, key, Config.ucabOffset, BitVec.toNat_sub, BitVec.toNat_ofNat, physicalNumber]
    simp only [Config.ucabLo, Config.ucabHi] at h
    rw [if_pos h]
    omega
  · have e : physicalAddress va = va.extractLsb' 0 29 := by
      unfold physicalAddress
      rw [if_neg h]
    simp only [Config.ucabLo, Config.ucabHi] at h
    rw [e, key, physicalNumber, if_neg h]

/-- The physical address moves with the virtual one inside a block of 16 bytes. -/
theorem physicalAddress_block {va ea : VAddr} (hb : ea.toNat / 16 = va.toNat / 16) :
    (physicalAddress ea).toNat + va.toNat = (physicalAddress va).toNat + ea.toNat := by
  have := va.isLt
  have := ea.isLt
  rw [toNat_physicalAddress, toNat_physicalAddress, physicalNumber, physicalNumber]
  split <;> split <;> omega

/-- Two addresses in one block of 16 bytes route to one array, in one block of it. -/
theorem route_block {va ea : VAddr} {r : Region} {o : Nat} (hb : ea.toNat / 16 = va.toNat / 16)
    (h : route va = .array r o) :
    ∃ o', route ea = .array r o' ∧ cellOf r o' / 16 = cellOf r o / 16 ∧ o' + va.toNat = o + ea.toNat := by
  have hp := physicalAddress_block hb
  have hq := physicalAddress_mod va
  rcases route_array_cases h with ⟨rfl, h1, h2, h3⟩ | ⟨rfl, h1, h2⟩ | ⟨rfl, h1, h2, h3⟩ | ⟨rfl, h1, h2, h3⟩
  · refine ⟨ea.toNat - Config.sprBase, ?_, ?_, ?_⟩
    · unfold route
      rw [if_pos (by simp only [Config.sprBase, Config.sprSize]; omega)]
    · simp only [cellOf, regionBase, Config.sprBase]; omega
    · simp only [Config.sprBase]; omega
  all_goals
    have hs : ¬ (Config.sprBase ≤ ea.toNat ∧ ea.toNat ≤ Config.sprBase + Config.sprSize - 1) := by
      intro hc
      unfold route at h
      rw [if_pos (by simp only [Config.sprBase, Config.sprSize] at hc ⊢; omega)] at h
      simp at h
    unfold route routePhysical
    rw [if_neg hs]
    simp only [Config.sprBase, Config.sprSize] at hs
  · rw [if_pos (by simp only [Config.ramBase, Config.ramSize]; omega)]
    exact ⟨_, rfl, by simp only [cellOf, regionBase, Config.ramBase]; omega, by simp only [Config.ramBase]; omega⟩
  · rw [if_neg (by simp only [Config.ramBase, Config.ramSize]; omega),
      if_pos (by simp only [Config.romBase, Config.romSize]; omega)]
    exact ⟨_, rfl, by simp only [cellOf, regionBase, Config.romBase]; omega, by simp only [Config.romBase]; omega⟩
  · rw [if_neg (by simp only [Config.ramBase, Config.ramSize]; omega),
      if_neg (by simp only [Config.romBase, Config.romSize]; omega),
      if_pos (by simp only [Config.iopRamBase, Config.iopRamSize]; omega)]
    exact ⟨_, rfl, by simp only [cellOf, regionBase, Config.iopRamBase]; omega, by
      simp only [Config.iopRamBase]; omega⟩

/-! ### What the instructions do to memory -/

/-- What a store at `ea`, if any, may do to memory. -/
structure MemoryEffect (ea : Option VAddr) (s u : State) : Prop where
  bytes : ∀ a, u.mem.read a ≠ s.mem.read a → ∃ va r o, ea = some va ∧ route va = .array r o ∧ r ≠ .bootRom ∧
    a / 16 = cellOf r o / 16
  wf : s.mem.wf → u.mem.wf
  cells : ∀ c ∈ u.mem, c ∈ s.mem ∨ cellExists c.1

theorem MemoryEffect.of_eq {ea : Option VAddr} {s u : State} (h : u.mem = s.mem) : MemoryEffect ea s u :=
  ⟨fun a ha => absurd (by rw [h]) ha, fun hw => h ▸ hw, fun c hc => .inl (h ▸ hc)⟩

/-- A naturally aligned write somewhere in the block of `ea`. -/
theorem State.memoryEffect_memWrite (s : State) {w : Width} {va ea : VAddr} (v : QWord)
    (hb : ea.toNat / 16 = va.toNat / 16) (ha : va.toNat % widthBytes w = 0) :
    MemoryEffect (some ea) s (s.memWrite w va v) := by
  cases h : route va with
  | busError p => exact .of_eq (by unfold State.memWrite; rw [h]; rfl)
  | peripheral k p =>
    refine .of_eq ?_
    unfold State.memWrite
    rw [h]
    simp only
    split <;> simp only [State.peripheralWrite_mem]
  | array r o =>
    by_cases hr : r = .bootRom
    · subst hr
      exact .of_eq (by rw [State.memWrite_rom v h]; rfl)
    · rw [State.memWrite_array v h hr]
      obtain ⟨o', h1, h2, h3⟩ := route_block hb h
      have hm := cellOf_mod h
      have hw : widthBytes w ∣ 16 := by cases w <;> decide
      have hin : cellOf r o % 16 + widthBytes w ≤ 16 := by
        rw [hm]
        cases w <;> simp only [widthBytes] at * <;> omega
      refine ⟨fun a hne => ⟨ea, r, o', rfl, h1, hr, ?_⟩, fun hw => Memory.wf_writeLE hw _ _ _, fun c hc => ?_⟩
      · by_contra hcon
        refine hne (Memory.read_writeLE_outside _ _ _ _ ?_)
        by_contra
        omega
      · rcases Memory.mem_writeLE hc with hc | hc
        · exact .inl hc
        · refine .inr ⟨r, ?_⟩
          have := route_offset_lt h
          have := region_blocks r
          unfold cellOf at *
          omega

/-! ### What an instruction can do -/

/-- Which control outcomes an instruction can end in. -/
def mayEnd (i : Instr) (s : State) : Control → Prop
  | .next => True
  | .taken _ => isJumpOrBranch i = true
  | .skip => isLikely i = true
  | .redirect target => i = .eret ∧ target = s.returnTarget
  | .exception code => code = .adEL ∨ code = .adES ∨ code = .sys ∨ code = .bp

/-- The effects of instruction `i` in `s`, made in `u` before the choice of the next `pc`. -/
structure Effect (i : Instr) (s u : State) (out : Control) : Prop where
  pcs : SamePc s u
  latches : SameLatches s u
  registers : ∀ r, destination i ≠ some r → u.reg r = s.reg r
  uppers : ∀ r, (∀ base offset, i ≠ .lq r base offset) →
    (u.reg r).extractLsb' 64 64 = (s.reg r).extractLsb' 64 64
  pair : writesPair i = false → u.hi = s.hi ∧ u.lo = s.lo
  pair1 : writesPair1 i = false → u.hi1 = s.hi1 ∧ u.lo1 = s.lo1
  slots : ∀ n, n ∉ [8#5, 12#5, 13#5] → (∀ rt, i ≠ .mtc0 rt n) → u.slot n = s.slot n
  written : ∀ rt n, i = .mtc0 rt n → u.slot n = (s.reg rt).setWidth 32
  badVAddr : (∀ rt, i ≠ .mtc0 rt 8#5) → (∀ code, out ≠ .exception code) → u.slot 8#5 = s.slot 8#5
  status : (∀ rt, i ≠ .mtc0 rt 12#5) → i ≠ .eret → i ≠ .ei → i ≠ .di → u.status = s.status
  eret : i = .eret → u.status = s.leaveLevel.status
  ei : i = .ei → u.status = s.status ∨ u.status = setStatusEIE s.status
  di : i = .di → u.status = s.status ∨ u.status = clearStatusEIE s.status
  cause : (∀ rt, i ≠ .mtc0 rt 13#5) → OnlyLinesAsserted s.cause u.cause
  memory : MemoryEffect (storeAddress s i) s u
  events : ∃ new, u.events = new ++ s.events ∧ new.length ≤ 2
  ends : mayEnd i s out

/-- Not one of the four instructions that write a control slot themselves. -/
def leavesSlots : Instr → Bool
  | .mtc0 _ _ | .eret | .ei | .di => false
  | _ => true

theorem not_mtc0 {i : Instr} (h : leavesSlots i = true) (rt n : Reg) : i ≠ .mtc0 rt n := by
  rintro rfl
  exact absurd h (by simp [leavesSlots])

/-- An instruction that only accessed the bus so far. -/
theorem Effect.of_bus {i : Instr} {s u : State} (hi : leavesSlots i = true) (b : BusFrame s u)
    (hm : MemoryEffect (storeAddress s i) s u) (he : ∃ new, u.events = new ++ s.events ∧ new.length ≤ 2) :
    Effect i s u .next where
  pcs := b.pcs
  latches := b.latches
  registers r _ := State.reg_congr b.gpr r
  uppers r _ := by rw [State.reg_congr b.gpr r]
  pair _ := ⟨b.pairs.1, b.pairs.2.1⟩
  pair1 _ := b.pairs.2.2
  slots n hn _ := b.slots n (by simp_all)
  written rt n h := absurd h (not_mtc0 hi rt n)
  badVAddr _ _ := b.slots _ (by decide)
  status _ _ _ _ := b.slots _ (by decide)
  eret h := by subst h; exact absurd hi (by decide)
  ei h := by subst h; exact absurd hi (by decide)
  di h := by subst h; exact absurd hi (by decide)
  cause _ := b.cause
  memory := hm
  events := he
  ends := trivial

theorem Effect.nothing {i : Instr} (s : State) (hi : leavesSlots i = true) : Effect i s s .next :=
  .of_bus hi (BusFrame.refl s) (.of_eq rfl) ⟨[], rfl, by decide⟩

/-- Followed by a 64-bit write of the destination. -/
theorem Effect.setLow {i : Instr} {s u : State} (h : Effect i s u .next) {d : Reg} (hd : destination i = some d)
    (v : DWord) : Effect i s (u.setLow d v) .next where
  pcs := by simpa [SamePc] using h.pcs
  latches := by simpa [SameLatches] using h.latches
  registers r hr := by
    rw [State.reg_setLow, if_neg ?_]
    · exact h.registers r hr
    · rintro ⟨rfl, _⟩
      exact hr hd
  uppers r hr := by rw [State.setLow_upper]; exact h.uppers r hr
  pair hp := by simpa using h.pair hp
  pair1 hp := by simpa using h.pair1 hp
  slots n hn hi := by rw [State.slot_congr (State.setLow_cop0 u d v)]; exact h.slots n hn hi
  written rt n hi := by rw [State.slot_congr (State.setLow_cop0 u d v)]; exact h.written rt n hi
  badVAddr hi ho := by rw [State.slot_congr (State.setLow_cop0 u d v)]; exact h.badVAddr hi ho
  status h1 h2 h3 h4 := by
    rw [State.status_eq, State.slot_congr (State.setLow_cop0 u d v)]; exact h.status h1 h2 h3 h4
  eret hi := by rw [State.status_eq, State.slot_congr (State.setLow_cop0 u d v)]; exact h.eret hi
  ei hi := by rw [State.status_eq, State.slot_congr (State.setLow_cop0 u d v)]; exact h.ei hi
  di hi := by rw [State.status_eq, State.slot_congr (State.setLow_cop0 u d v)]; exact h.di hi
  cause hi := by rw [State.cause_eq (u.setLow d v), State.slot_congr (State.setLow_cop0 u d v)]; exact h.cause hi
  memory := by
    have := h.memory
    exact ⟨by simpa using this.bytes, by simpa using this.wf, by simpa using this.cells⟩
  events := by simpa using h.events
  ends := trivial

/-- With another outcome that the instruction may end in. -/
theorem Effect.withEnd {i : Instr} {s u : State} (h : Effect i s u .next) {out : Control} (he : mayEnd i s out) :
    Effect i s u out :=
  { h with badVAddr := fun hi _ => h.badVAddr hi (fun _ => by simp), ends := he }

/-- `exec` answered as `u` and `out` say: the outcome carried out, or a control transfer refused in a delay slot. -/
def Answers (i : Instr) (s u : State) (out : Control) : Prop :=
  exec i s = u.finish out ∨ (exec i s = .refused .controlTransferInDelaySlot ∧ s.isBranching = true)

/-- A register instruction. -/
theorem effect_low {i : Instr} {s : State} {d : Reg} {v : DWord} (h : exec i s = (s.setLow d v).finish .next)
    (hd : destination i = some d) (hi : leavesSlots i = true) : ∃ u out, Effect i s u out ∧ Answers i s u out :=
  ⟨_, _, (Effect.nothing s hi).setLow hd v, .inl h⟩

/-- An instruction without an effect, or a conditional branch or jump that does not link. -/
theorem effect_control {i : Instr} {s : State} {out : Control} (h : exec i s = s.finish out)
    (hi : leavesSlots i = true) (he : mayEnd i s out) : ∃ u out, Effect i s u out ∧ Answers i s u out :=
  ⟨_, _, (Effect.nothing s hi).withEnd he, .inl h⟩

/-- A linking jump or branch. -/
theorem effect_link {i : Instr} {s : State} {out : Control} {d : Reg} (h : exec i s = s.linkThen d out)
    (hd : destination i = some d) (hi : leavesSlots i = true) (he : mayEnd i s out) :
    ∃ u out, Effect i s u out ∧ Answers i s u out := by
  refine ⟨s.setLow d (linkValue s.pc), out, ((Effect.nothing s hi).setLow hd _).withEnd he, ?_⟩
  unfold Answers
  rw [h]
  unfold State.linkThen outsideDelaySlot
  by_cases hb : s.isBranching = true
  · rw [if_pos hb]
    exact .inr ⟨rfl, hb⟩
  · rw [if_neg hb]
    exact .inl rfl

theorem branchIf_cases (s : State) (c : Bool) (offset : BitVec 16) (otherwise : Control) :
    s.branchIf c offset otherwise = .taken (branchTarget s.pc offset) ∨ s.branchIf c offset otherwise = otherwise := by
  unfold State.branchIf
  cases c
  · exact .inr rfl
  · exact .inl rfl

theorem mayEnd_branchIf {i : Instr} (s : State) (c : Bool) (offset : BitVec 16) {otherwise : Control}
    (hj : isJumpOrBranch i = true) (ho : mayEnd i s otherwise) : mayEnd i s (s.branchIf c offset otherwise) := by
  rcases branchIf_cases s c offset otherwise with h | h <;> rw [h]
  · exact hj
  · exact ho

/-- A read adds at most two events, one unless it is 16 bytes wide. -/
theorem State.events_memRead (s : State) (w : Width) (va : VAddr) :
    ∃ new, (s.memRead w va).2.events = new ++ s.events ∧ new.length ≤ 2 ∧ (w ≠ .quad → new.length ≤ 1) := by
  have R := s.readsBus_memRead w va
  cases h : route va with
  | array r o => exact ⟨[], (R.array r o h).2.1, by simp, by simp⟩
  | busError p => exact ⟨[_], (R.noTarget p h).2.1, by simp, by simp⟩
  | peripheral k p =>
    by_cases hw : w = .quad
    · obtain ⟨lo, hi, _, e, _⟩ := R.peripheralQuad k p h hw
      exact ⟨[_, _], e, by simp, fun hn => absurd hw hn⟩
    · obtain ⟨a, _, _, e, _⟩ := R.peripheral k p h hw
      exact ⟨[_], e, by simp, by simp⟩

/-- So does a write. -/
theorem State.events_memWrite (s : State) (w : Width) (va : VAddr) (v : QWord) :
    ∃ new, (s.memWrite w va v).events = new ++ s.events ∧ new.length ≤ 2 ∧ (w ≠ .quad → new.length ≤ 1) := by
  cases h : route va with
  | array r o =>
    by_cases hr : r = .bootRom
    · subst hr
      rw [State.memWrite_rom v h]
      exact ⟨[_], rfl, by simp, by simp⟩
    · rw [State.memWrite_array v h hr]
      exact ⟨[], rfl, by simp, by simp⟩
  | busError p =>
    unfold State.memWrite
    rw [h]
    exact ⟨[_], rfl, by simp, by simp⟩
  | peripheral k p =>
    unfold State.memWrite
    rw [h]
    cases w with
    | quad => exact ⟨[_, _], rfl, by simp, by simp⟩
    | _ => exact ⟨[_], rfl, by simp, by simp⟩

/-- The bus part of a load. -/
theorem effect_memRead {i : Instr} (s : State) (hi : leavesSlots i = true) (w : Width) (va : VAddr) :
    Effect i s (s.memRead w va).2 .next :=
  let ⟨new, h, hl, _⟩ := s.events_memRead w va
  .of_bus hi (s.busFrame_memRead w va) (.of_eq (State.memRead_mem s w va)) ⟨new, h, hl⟩

/-- The address error: `BadVAddr` open, then the exception. -/
theorem effect_addressError {i : Instr} {s : State} {code : ExcCode} {ea : VAddr} (h : exec i s = s.addressError code ea)
    (hi : leavesSlots i = true) (hc : mayEnd i s (.exception code)) : ∃ u out, Effect i s u out ∧ Answers i s u out := by
  refine ⟨{ s.setSlot slotBadVAddr (Config.badVAddr s.freeIndex ea (s.slot slotBadVAddr)) with
    freeIndex := s.freeIndex + 1 }, .exception code, ?_, .inl h⟩
  have hs := fun n => s.slot_setSlot slotBadVAddr n (Config.badVAddr s.freeIndex ea (s.slot slotBadVAddr))
  have hs' : ∀ n, n ≠ 8#5 → (s.setSlot slotBadVAddr (Config.badVAddr s.freeIndex ea (s.slot slotBadVAddr))).slot n = s.slot n :=
    fun n hn => by rw [hs, if_neg (show n ≠ slotBadVAddr from hn)]
  have base := (Effect.nothing (i := i) s hi).withEnd hc
  exact {
    base with
    slots := fun n hn _ => hs' n (by simp_all)
    written := fun rt n h => absurd h (not_mtc0 hi rt n)
    badVAddr := fun _ ho => absurd rfl (ho code)
    status := fun _ _ _ _ => hs' _ (by decide)
    eret := fun h => by subst h; exact absurd hi (by decide)
    ei := fun h => by subst h; exact absurd hi (by decide)
    di := fun h => by subst h; exact absurd hi (by decide)
    cause := fun _ => ⟨0#32, by decide, by
      rw [BitVec.or_zero]
      exact hs' _ (by decide)⟩
    memory := .of_eq rfl
    events := ⟨[], rfl, by decide⟩ }

/-- An aligned load into the low half. -/
theorem effect_alignedLoad {i : Instr} {s : State} {w : Width} {base d : Reg} {offset : BitVec 16} {f : QWord → DWord}
    (h : exec i s = s.alignedLoad w base offset (fun t v => t.setLow d (f v))) (hd : destination i = some d)
    (hi : leavesSlots i = true) : ∃ u out, Effect i s u out ∧ Answers i s u out := by
  unfold State.alignedLoad at h
  by_cases ha : aligned w (s.effectiveAddress base offset) = true
  · simp only [if_pos ha] at h
    exact ⟨_, _, (effect_memRead s hi w _).setLow hd _, .inl h⟩
  · simp only [if_neg ha] at h
    exact effect_addressError h hi (.inl rfl)

/-- An aligned store. -/
theorem effect_alignedStore {i : Instr} {s : State} {w : Width} {base : Reg} {offset : BitVec 16} {v : QWord}
    (h : exec i s = s.alignedStore w base offset v) (hs : storeAddress s i = some (s.effectiveAddress base offset))
    (hi : leavesSlots i = true) : ∃ u out, Effect i s u out ∧ Answers i s u out := by
  unfold State.alignedStore at h
  by_cases ha : aligned w (s.effectiveAddress base offset) = true
  · simp only [if_pos ha] at h
    obtain ⟨new, he, hl, _⟩ := s.events_memWrite w (s.effectiveAddress base offset) v
    refine ⟨_, _, Effect.of_bus hi (s.busFrame_memWrite w _ v) ?_ ⟨new, he, hl⟩, .inl h⟩
    rw [hs]
    exact s.memoryEffect_memWrite v rfl ((aligned_iff w _).1 ha)
  · simp only [if_neg ha] at h
    exact effect_addressError h hi (.inr (.inl rfl))

/-- One read and one write of an aligned unit around the effective address. -/
theorem effect_readWrite {i : Instr} {s : State} {w : Width} {va ea : VAddr} {v : QWord} (hw : w ≠ .quad)
    (h : exec i s = ((s.memRead w va).2.memWrite w va v).finish .next) (hs : storeAddress s i = some ea)
    (hb : ea.toNat / 16 = va.toNat / 16) (ha : va.toNat % widthBytes w = 0) (hi : leavesSlots i = true) :
    ∃ u out, Effect i s u out ∧ Answers i s u out := by
  obtain ⟨new, he, _, hl⟩ := s.events_memRead w va
  obtain ⟨new', he', _, hl'⟩ := (s.memRead w va).2.events_memWrite w va v
  have m := (s.memRead w va).2.memoryEffect_memWrite v hb ha
  have em : (s.memRead w va).2.mem = s.mem := State.memRead_mem s w va
  refine ⟨_, _, Effect.of_bus hi ((s.busFrame_memRead w va).trans ((s.memRead w va).2.busFrame_memWrite w va v)) ?_
    ⟨new' ++ new, by rw [he', he, List.append_assoc], ?_⟩, .inl h⟩
  · rw [hs]
    exact ⟨fun a hne => m.bytes a (by rwa [em]), fun hw => m.wf (by rwa [em]), fun c hc => by
      rw [← em]; exact m.cells c hc⟩
  · have := hl hw
    have := hl' hw
    rw [List.length_append]
    omega

theorem effect_mergeStoreWord {i : Instr} {s : State} {rt base : Reg} {offset : BitVec 16}
    {f : BitVec 2 → Word → Word → Word} (h : exec i s = s.mergeStoreWord rt base offset f)
    (hs : storeAddress s i = some (s.effectiveAddress base offset)) (hi : leavesSlots i = true) :
    ∃ u out, Effect i s u out ∧ Answers i s u out := by
  have := toNat_wordBase (s.effectiveAddress base offset)
  exact effect_readWrite (w := .word) (by decide) h hs (by omega) (by simp only [widthBytes]; omega) hi

theorem effect_mergeStoreDouble {i : Instr} {s : State} {rt base : Reg} {offset : BitVec 16}
    {f : BitVec 3 → DWord → DWord → DWord} (h : exec i s = s.mergeStoreDouble rt base offset f)
    (hs : storeAddress s i = some (s.effectiveAddress base offset)) (hi : leavesSlots i = true) :
    ∃ u out, Effect i s u out ∧ Answers i s u out := by
  have := toNat_doubleBase (s.effectiveAddress base offset)
  exact effect_readWrite (w := .double) (by decide) h hs (by omega) (by simp only [widthBytes]; omega) hi

/-- A read and a merge into the low half. -/
theorem effect_mergeLoad {i : Instr} {s : State} {w : Width} {va : VAddr} {d : Reg} {v : DWord}
    (h : exec i s = ((s.memRead w va).2.setLow d v).finish .next) (hd : destination i = some d)
    (hi : leavesSlots i = true) : ∃ u out, Effect i s u out ∧ Answers i s u out :=
  ⟨_, _, (effect_memRead s hi w va).setLow hd v, .inl h⟩

/-- A write of the ordinary pair. -/
theorem Effect.setPair {i : Instr} (s : State) (hi : leavesSlots i = true) (hp : writesPair i = true)
    (lo hi' : DWord) : Effect i s (s.setPair lo hi') .next :=
  { Effect.nothing s hi with
    pair := fun h => by rw [hp] at h; exact absurd h (by decide)
    memory := .of_eq rfl }

/-- A write of the shadow pair. -/
theorem Effect.setPair1 {i : Instr} (s : State) (hi : leavesSlots i = true) (hp : writesPair1 i = true)
    (lo hi' : DWord) : Effect i s (s.setPair1 lo hi') .next :=
  { Effect.nothing s hi with
    pair1 := fun h => by rw [hp] at h; exact absurd h (by decide)
    memory := .of_eq rfl }

/-- `LQ`. -/
theorem effect_lq (s : State) (rt base : Reg) (offset : BitVec 16) :
    ∃ u out, Effect (.lq rt base offset) s u out ∧ Answers (.lq rt base offset) s u out := by
  have h : exec (.lq rt base offset) s = s.alignedLoad .quad base offset (fun t v => t.setReg rt v) := rfl
  unfold State.alignedLoad at h
  by_cases ha : aligned .quad (s.effectiveAddress base offset) = true
  · simp only [if_pos ha] at h
    refine ⟨_, _, ?_, .inl h⟩
    have e := effect_memRead (i := .lq rt base offset) s rfl .quad (s.effectiveAddress base offset)
    have em := State.memRead_mem s .quad (s.effectiveAddress base offset)
    revert e em
    generalize s.memRead .quad (s.effectiveAddress base offset) = m
    obtain ⟨v, m⟩ := m
    intro e em
    have hc : ∀ n, (m.setReg rt v).slot n = m.slot n := State.slot_congr (State.setReg_cop0 m rt v)
    have hr : ∀ r, r ≠ rt → (m.setReg rt v).reg r = m.reg r := fun r hr => by
      rw [State.reg_setReg, if_neg (fun h => hr h.1)]
    exact {
      pcs := by simpa [SamePc] using e.pcs
      latches := by simpa [SameLatches] using e.latches
      registers := fun r h => (hr r (fun h' => h (by rw [h']; rfl))).trans (e.registers r h)
      uppers := fun r h => by rw [hr r (fun h' => h base offset (by rw [h']))]; exact e.uppers r h
      pair := by simpa using e.pair
      pair1 := by simpa using e.pair1
      slots := fun n hn hi => (hc n).trans (e.slots n hn hi)
      written := fun rt' n hi => (hc n).trans (e.written rt' n hi)
      badVAddr := fun hi ho => (hc _).trans (e.badVAddr hi ho)
      status := fun h1 h2 h3 h4 => (hc _).trans (e.status h1 h2 h3 h4)
      eret := fun hi => (hc _).trans (e.eret hi)
      ei := fun hi => absurd hi (by simp)
      di := fun hi => absurd hi (by simp)
      cause := fun hi => by rw [State.cause_eq (m.setReg rt v), hc]; exact e.cause hi
      memory := .of_eq ((State.setReg_mem m rt v).trans em)
      events := by simpa using e.events
      ends := trivial }
  · simp only [if_neg ha] at h
    exact effect_addressError h rfl (.inl rfl)

/-- `MTC0`. -/
theorem effect_mtc0 (s : State) (rt slot : Reg) :
    ∃ u out, Effect (.mtc0 rt slot) s u out ∧ Answers (.mtc0 rt slot) s u out := by
  refine ⟨s.setSlot slot (s.word rt), .next, ?_, .inl rfl⟩
  have hs : ∀ n, n ≠ slot → (s.setSlot slot (s.word rt)).slot n = s.slot n := fun n hn => by
    rw [State.slot_setSlot, if_neg hn]
  have hother : ∀ n, (∀ rt', Instr.mtc0 rt slot ≠ .mtc0 rt' n) → (s.setSlot slot (s.word rt)).slot n = s.slot n :=
    fun n hn => hs n (fun h => hn rt (by rw [h]))
  exact {
    pcs := ⟨rfl, rfl, rfl, rfl⟩
    latches := ⟨rfl, rfl, rfl⟩
    registers := fun _ _ => rfl
    uppers := fun _ _ => rfl
    pair := fun _ => ⟨rfl, rfl⟩
    pair1 := fun _ => ⟨rfl, rfl⟩
    slots := fun n _ hn => hother n hn
    written := fun rt' n h => by
      injection h with h1 h2
      subst h1 h2
      rw [State.slot_setSlot, if_pos rfl]
      rfl
    badVAddr := fun hn _ => hother _ hn
    status := fun hn _ _ _ => hother _ hn
    eret := fun h => absurd h (by simp)
    ei := fun h => absurd h (by simp)
    di := fun h => absurd h (by simp)
    cause := fun hn => ⟨0#32, by decide, by
      rw [BitVec.or_zero]
      exact hother _ hn⟩
    memory := .of_eq rfl
    events := ⟨[], rfl, by decide⟩
    ends := trivial }

/-- An instruction that only writes `Status`. -/
theorem effect_setStatus {i : Instr} {s : State} {w : Word} {out : Control} (hm : ∀ rt n, i ≠ .mtc0 rt n)
    (h : i = .eret ∨ i = .ei ∨ i = .di) (he : i = .eret → w = s.leaveLevel.status)
    (hei : i = .ei → w = s.status ∨ w = setStatusEIE s.status)
    (hdi : i = .di → w = s.status ∨ w = clearStatusEIE s.status) (ho : mayEnd i s out) :
    Effect i s (s.setStatus w) out := by
  have hs : ∀ n, n ≠ 12#5 → (s.setStatus w).slot n = s.slot n := fun n hn => by
    rw [State.slot_setStatus, if_neg hn]
  have hw : (s.setStatus w).status = w := by rw [State.status_eq, State.slot_setStatus, if_pos rfl]
  exact {
    pcs := ⟨rfl, rfl, rfl, rfl⟩
    latches := ⟨rfl, rfl, rfl⟩
    registers := fun _ _ => rfl
    uppers := fun _ _ => rfl
    pair := fun _ => ⟨rfl, rfl⟩
    pair1 := fun _ => ⟨rfl, rfl⟩
    slots := fun n hn _ => hs n (by simp_all)
    written := fun rt n h => absurd h (hm rt n)
    badVAddr := fun _ _ => hs _ (by decide)
    status := fun _ h1 h2 h3 => absurd h (by simp_all)
    eret := fun hi => hw.trans (he hi)
    ei := fun hi => by rw [hw]; exact hei hi
    di := fun hi => by rw [hw]; exact hdi hi
    cause := fun _ => ⟨0#32, by decide, by
      rw [BitVec.or_zero]
      exact hs _ (by decide)⟩
    memory := .of_eq rfl
    events := ⟨[], rfl, by decide⟩
    ends := ho }

theorem setStatus_status (s : State) : s.setStatus s.status = s := by
  refine State.ext_fields rfl rfl rfl rfl rfl rfl rfl rfl rfl rfl rfl ?_ rfl rfl rfl rfl
  exact Vector.set_getElem_self _

/-- `ERET`, `EI`, `DI`. -/
theorem effect_eret (s : State) : ∃ u out, Effect .eret s u out ∧ Answers .eret s u out := by
  refine ⟨s.leaveLevel, .redirect s.returnTarget, ?_, .inl rfl⟩
  have key : ∃ w, s.leaveLevel = s.setStatus w := by
    unfold State.leaveLevel
    split
    · exact ⟨_, rfl⟩
    · exact ⟨_, rfl⟩
  obtain ⟨w, hw⟩ := key
  have hs : w = s.leaveLevel.status := by rw [hw, State.status_eq, State.slot_setStatus, if_pos rfl]
  rw [hw]
  exact effect_setStatus (fun _ _ => by simp) (.inl rfl) (fun _ => hs) (fun h => absurd h (by simp))
    (fun h => absurd h (by simp)) ⟨rfl, rfl⟩

theorem effect_ei (s : State) : ∃ u out, Effect .ei s u out ∧ Answers .ei s u out := by
  refine ⟨s.setStatus (if mayChangeEIE s.status then setStatusEIE s.status else s.status), .next, ?_, .inl ?_⟩
  · refine effect_setStatus (fun _ _ => by simp) (.inr (.inl rfl)) (fun h => absurd h (by simp)) (fun _ => ?_)
      (fun h => absurd h (by simp)) trivial
    split
    · exact .inr rfl
    · exact .inl rfl
  · show execEi s = _
    unfold execEi
    split
    · rfl
    · rw [setStatus_status]

theorem effect_di (s : State) : ∃ u out, Effect .di s u out ∧ Answers .di s u out := by
  refine ⟨s.setStatus (if mayChangeEIE s.status then clearStatusEIE s.status else s.status), .next, ?_, .inl ?_⟩
  · refine effect_setStatus (fun _ _ => by simp) (.inr (.inr rfl)) (fun h => absurd h (by simp))
      (fun h => absurd h (by simp)) (fun _ => ?_) trivial
    split
    · exact .inr rfl
    · exact .inl rfl
  · show execDi s = _
    unfold execDi
    split
    · rfl
    · rw [setStatus_status]

/-- `MOVZ` and `MOVN`: a register write or none. -/
theorem effect_movz (s : State) (rd rs rt : Reg) : ∃ u out, Effect (.movz rd rs rt) s u out ∧ Answers (.movz rd rs rt) s u out := by
  refine ⟨if s.low rt = 0#64 then s.setLow rd (s.low rs) else s, .next, ?_, .inl rfl⟩
  split
  · exact (Effect.nothing s rfl).setLow rfl _
  · exact Effect.nothing s rfl

theorem effect_movn (s : State) (rd rs rt : Reg) : ∃ u out, Effect (.movn rd rs rt) s u out ∧ Answers (.movn rd rs rt) s u out := by
  refine ⟨if s.low rt = 0#64 then s else s.setLow rd (s.low rs), .next, ?_, .inl rfl⟩
  split
  · exact Effect.nothing s rfl
  · exact (Effect.nothing s rfl).setLow rfl _

/-- What `exec` can do, for every instruction in every state. -/
theorem exec_effect (i : Instr) (s : State) : ∃ u out, Effect i s u out ∧ Answers i s u out := by
  cases i with
  | j index => exact effect_control (out := .taken (jumpTarget s.pc index)) rfl rfl rfl
  | jal => exact effect_link rfl rfl rfl rfl
  | jr rs => exact effect_control (out := .taken (s.word rs)) rfl rfl rfl
  | jalr => exact effect_link rfl rfl rfl rfl
  | beq => exact effect_control rfl rfl (mayEnd_branchIf s _ _ rfl trivial)
  | bne => exact effect_control rfl rfl (mayEnd_branchIf s _ _ rfl trivial)
  | blez => exact effect_control rfl rfl (mayEnd_branchIf s _ _ rfl trivial)
  | bgtz => exact effect_control rfl rfl (mayEnd_branchIf s _ _ rfl trivial)
  | bltz => exact effect_control rfl rfl (mayEnd_branchIf s _ _ rfl trivial)
  | bgez => exact effect_control rfl rfl (mayEnd_branchIf s _ _ rfl trivial)
  | beql => exact effect_control rfl rfl (mayEnd_branchIf s _ _ rfl rfl)
  | bnel => exact effect_control rfl rfl (mayEnd_branchIf s _ _ rfl rfl)
  | blezl => exact effect_control rfl rfl (mayEnd_branchIf s _ _ rfl rfl)
  | bgtzl => exact effect_control rfl rfl (mayEnd_branchIf s _ _ rfl rfl)
  | bltzl => exact effect_control rfl rfl (mayEnd_branchIf s _ _ rfl rfl)
  | bgezl => exact effect_control rfl rfl (mayEnd_branchIf s _ _ rfl rfl)
  | bltzal => exact effect_link rfl rfl rfl (mayEnd_branchIf s _ _ rfl trivial)
  | bgezal => exact effect_link rfl rfl rfl (mayEnd_branchIf s _ _ rfl trivial)
  | bltzall => exact effect_link rfl rfl rfl (mayEnd_branchIf s _ _ rfl rfl)
  | bgezall => exact effect_link rfl rfl rfl (mayEnd_branchIf s _ _ rfl rfl)
  | lb _ base offset => exact effect_alignedLoad (w := .byte) (base := base) (offset := offset) (f := fun v => (v.setWidth 8).signExtend 64) rfl rfl rfl
  | lbu _ base offset => exact effect_alignedLoad (w := .byte) (base := base) (offset := offset) (f := fun v => (v.setWidth 8).setWidth 64) rfl rfl rfl
  | lh _ base offset => exact effect_alignedLoad (w := .half) (base := base) (offset := offset) (f := fun v => (v.setWidth 16).signExtend 64) rfl rfl rfl
  | lhu _ base offset => exact effect_alignedLoad (w := .half) (base := base) (offset := offset) (f := fun v => (v.setWidth 16).setWidth 64) rfl rfl rfl
  | lw _ base offset => exact effect_alignedLoad (w := .word) (base := base) (offset := offset) (f := fun v => sextWord (v.setWidth 32)) rfl rfl rfl
  | lwu _ base offset => exact effect_alignedLoad (w := .word) (base := base) (offset := offset) (f := fun v => zextWord (v.setWidth 32)) rfl rfl rfl
  | ld _ base offset => exact effect_alignedLoad (w := .double) (base := base) (offset := offset) (f := fun v => v.setWidth 64) rfl rfl rfl
  | lq rt base offset => exact effect_lq s rt base offset
  | sb rt base offset => exact effect_alignedStore (w := .byte) (base := base) (offset := offset) (v := s.reg rt) rfl rfl rfl
  | sh rt base offset => exact effect_alignedStore (w := .half) (base := base) (offset := offset) (v := s.reg rt) rfl rfl rfl
  | sw rt base offset => exact effect_alignedStore (w := .word) (base := base) (offset := offset) (v := s.reg rt) rfl rfl rfl
  | sd rt base offset => exact effect_alignedStore (w := .double) (base := base) (offset := offset) (v := s.reg rt) rfl rfl rfl
  | sq rt base offset => exact effect_alignedStore (w := .quad) (base := base) (offset := offset) (v := s.reg rt) rfl rfl rfl
  | lwl => exact effect_mergeLoad rfl rfl rfl
  | lwr => exact effect_mergeLoad rfl rfl rfl
  | ldl => exact effect_mergeLoad rfl rfl rfl
  | ldr => exact effect_mergeLoad rfl rfl rfl
  | swl rt base offset => exact effect_mergeStoreWord (rt := rt) (base := base) (offset := offset) (f := fun k m v => mergeRightWord (swlTable k) m v) rfl rfl rfl
  | swr rt base offset => exact effect_mergeStoreWord (rt := rt) (base := base) (offset := offset) (f := fun k m v => mergeLeftWord (swrTable k) m v) rfl rfl rfl
  | sdl rt base offset => exact effect_mergeStoreDouble (rt := rt) (base := base) (offset := offset) (f := fun k m v => mergeRightDouble (sdlTable k) m v) rfl rfl rfl
  | sdr rt base offset => exact effect_mergeStoreDouble (rt := rt) (base := base) (offset := offset) (f := fun k m v => mergeLeftDouble (sdrTable k) m v) rfl rfl rfl
  | add => exact effect_low rfl rfl rfl
  | addu => exact effect_low rfl rfl rfl
  | sub => exact effect_low rfl rfl rfl
  | subu => exact effect_low rfl rfl rfl
  | addi => exact effect_low rfl rfl rfl
  | addiu => exact effect_low rfl rfl rfl
  | dadd => exact effect_low rfl rfl rfl
  | daddu => exact effect_low rfl rfl rfl
  | dsub => exact effect_low rfl rfl rfl
  | dsubu => exact effect_low rfl rfl rfl
  | daddi => exact effect_low rfl rfl rfl
  | daddiu => exact effect_low rfl rfl rfl
  | and => exact effect_low rfl rfl rfl
  | or => exact effect_low rfl rfl rfl
  | xor => exact effect_low rfl rfl rfl
  | nor => exact effect_low rfl rfl rfl
  | andi => exact effect_low rfl rfl rfl
  | ori => exact effect_low rfl rfl rfl
  | xori => exact effect_low rfl rfl rfl
  | lui => exact effect_low rfl rfl rfl
  | slt => exact effect_low rfl rfl rfl
  | sltu => exact effect_low rfl rfl rfl
  | slti => exact effect_low rfl rfl rfl
  | sltiu => exact effect_low rfl rfl rfl
  | sll => exact effect_low rfl rfl rfl
  | srl => exact effect_low rfl rfl rfl
  | sra => exact effect_low rfl rfl rfl
  | sllv => exact effect_low rfl rfl rfl
  | srlv => exact effect_low rfl rfl rfl
  | srav => exact effect_low rfl rfl rfl
  | dsll => exact effect_low rfl rfl rfl
  | dsrl => exact effect_low rfl rfl rfl
  | dsra => exact effect_low rfl rfl rfl
  | dsll32 => exact effect_low rfl rfl rfl
  | dsrl32 => exact effect_low rfl rfl rfl
  | dsra32 => exact effect_low rfl rfl rfl
  | dsllv => exact effect_low rfl rfl rfl
  | dsrlv => exact effect_low rfl rfl rfl
  | dsrav => exact effect_low rfl rfl rfl
  | mult => exact ⟨_, _, (Effect.setPair s rfl rfl _ _).setLow rfl _, .inl rfl⟩
  | multu => exact ⟨_, _, (Effect.setPair s rfl rfl _ _).setLow rfl _, .inl rfl⟩
  | mult1 => exact ⟨_, _, (Effect.setPair1 s rfl rfl _ _).setLow rfl _, .inl rfl⟩
  | multu1 => exact ⟨_, _, (Effect.setPair1 s rfl rfl _ _).setLow rfl _, .inl rfl⟩
  | div => exact ⟨_, _, Effect.setPair s rfl rfl _ _, .inl rfl⟩
  | divu => exact ⟨_, _, Effect.setPair s rfl rfl _ _, .inl rfl⟩
  | div1 => exact ⟨_, _, Effect.setPair1 s rfl rfl _ _, .inl rfl⟩
  | divu1 => exact ⟨_, _, Effect.setPair1 s rfl rfl _ _, .inl rfl⟩
  | mfhi => exact effect_low rfl rfl rfl
  | mflo => exact effect_low rfl rfl rfl
  | mthi rs => exact ⟨_, _, Effect.setPair s rfl rfl s.lo (s.low rs), .inl rfl⟩
  | mtlo rs => exact ⟨_, _, Effect.setPair s rfl rfl (s.low rs) s.hi, .inl rfl⟩
  | mfhi1 => exact effect_low rfl rfl rfl
  | mflo1 => exact effect_low rfl rfl rfl
  | mthi1 rs => exact ⟨_, _, Effect.setPair1 s rfl rfl s.lo1 (s.low rs), .inl rfl⟩
  | mtlo1 rs => exact ⟨_, _, Effect.setPair1 s rfl rfl (s.low rs) s.hi1, .inl rfl⟩
  | movz rd rs rt => exact effect_movz s rd rs rt
  | movn rd rs rt => exact effect_movn s rd rs rt
  | nop => exact effect_control (out := .next) rfl rfl trivial
  | syscall => exact effect_control (out := .exception .sys) rfl rfl (.inr (.inr (.inl rfl)))
  | breakpoint => exact effect_control (out := .exception .bp) rfl rfl (.inr (.inr (.inr rfl)))
  | mfc0 => exact effect_low rfl rfl rfl
  | mtc0 rt slot => exact effect_mtc0 s rt slot
  | eret => exact effect_eret s
  | ei => exact effect_ei s
  | di => exact effect_di s
  | sync => exact effect_control (out := .next) rfl rfl trivial
  | cache => exact effect_control (out := .next) rfl rfl trivial
  | pref => exact effect_control (out := .next) rfl rfl trivial
  | tlbr => exact effect_control (out := .next) rfl rfl trivial
  | tlbwi => exact effect_control (out := .next) rfl rfl trivial
  | tlbwr => exact effect_control (out := .next) rfl rfl trivial
  | tlbp => exact effect_control (out := .next) rfl rfl trivial

/-! ### What a step can do -/

/-- The next state of a control outcome (`40_step_driver.md` R92 step 5). -/
theorem finish_cases {u t : State} {out : Control} (h : u.finish out = .next t) :
    (out = .next ∧ t = u.advance) ∨
    (∃ target, out = .taken target ∧ u.isBranching = false ∧
      t = { u with branchPc := target, isBranching := true, delaySlot := 1, pc := u.pc + 4#32 }) ∨
    (out = .skip ∧ u.isBranching = false ∧ t = { u with pc := u.pc + 8#32 }) ∨
    (∃ target, out = .redirect target ∧ u.isBranching = false ∧
      t = { u with pc := target, isBranching := false, delaySlot := 0 }) ∨
    (∃ code, out = .exception code ∧ t = u.takeException code) := by
  have key : ∀ v : State, outsideDelaySlot u (.next v) = .next t → u.isBranching = false ∧ t = v := by
    intro v hv
    unfold outsideDelaySlot at hv
    cases hb : u.isBranching
    · rw [hb] at hv
      exact ⟨rfl, by injection hv with hv; exact hv.symm⟩
    · rw [hb] at hv
      simp at hv
  cases out with
  | next => injection h with h; exact .inl ⟨rfl, h.symm⟩
  | taken target => exact .inr (.inl ⟨target, rfl, key _ h⟩)
  | skip => exact .inr (.inr (.inl ⟨rfl, key _ h⟩))
  | redirect target => exact .inr (.inr (.inr (.inl ⟨target, rfl, key _ h⟩)))
  | exception code => injection h with h; exact .inr (.inr (.inr (.inr ⟨code, rfl, h.symm⟩)))

/-- What a fetch leaves alone (R91, R92 step 2). -/
structure FetchFrame (s t : State) : Prop where
  gpr : t.gpr = s.gpr
  pcs : SamePc s t
  pairs : SamePairs s t
  slots : SameSlotsBut [13#5] s t
  cause : OnlyLinesAsserted s.cause t.cause
  mem : t.mem = s.mem
  events : ∃ new, t.events = new ++ s.events ∧ new.length ≤ 1
  resetDone : t.resetDone = s.resetDone

theorem fetch_frame (s : State) : FetchFrame s s.fetch.2 := by
  have b := s.busFrame_memRead .word s.pc
  obtain ⟨new, he, _, hl⟩ := s.events_memRead .word s.pc
  exact ⟨b.gpr, b.pcs, b.pairs, b.slots, b.cause, State.memRead_mem s .word s.pc, ⟨new, he, hl (by decide)⟩,
    b.latches.2.2⟩

/-- A word that decodes is executed as its instruction. -/
theorem executeWord_ok {w : Word} {i : Instr} (h : decode w = .ok i) (s : State) : executeWord w s = exec i s := by
  unfold executeWord
  rw [h]

/-- A word that does not decode is reported, and the machine goes on (R80). -/
theorem executeWord_error {w : Word} {e : DecodeError} (h : decode w = .error e) (s : State) :
    executeWord w s = .next (s.emit (.decodeFailure s.pc w)).advance := by
  unfold executeWord
  rw [h]
  rfl

/-- `pc[1:0] = 0`, as a number (R93). -/
theorem State.pcAligned_iff (s : State) : s.pcAligned = true ↔ s.pc.toNat % 4 = 0 := by
  unfold State.pcAligned
  rw [beq_iff_eq, ← BitVec.toNat_inj, BitVec.extractLsb'_toNat]
  simp

/-- A step that may start is the fetched word executed, then the bookkeeping (R92). -/
theorem step_eq {s : State} (hr : s.resetDone = true) (hp : s.pcAligned = true) :
    step s = bookkeepingAfter (executeWord s.fetch.1 s.fetch.2) := by
  unfold step
  rw [hr, hp]
  rfl

/-- What a step can do: the fetch, then the effects and the outcome of the decoded instruction, or the report of a
decode failure, then the bookkeeping. -/
theorem step_cases {s t : State} (h : step s = .next t) :
    s.resetDone = true ∧ s.pcAligned = true ∧ ∃ u, t = u.bookkeeping ∧
      ((∃ i m out, decode s.fetch.1 = .ok i ∧ Effect i s.fetch.2 m out ∧ m.finish out = .next u) ∨
        (∃ e, decode s.fetch.1 = .error e ∧ u = (s.fetch.2.emit (.decodeFailure s.fetch.2.pc s.fetch.1)).advance)) := by
  cases hr : s.resetDone
  · simp [step, hr] at h
  cases hp : s.pcAligned
  · simp [step, hr, hp] at h
  rw [step_eq hr hp] at h
  refine ⟨rfl, rfl, ?_⟩
  have key : ∀ a : Host.Outcome State Fault Refusal, bookkeepingAfter a = .next t → ∃ u, a = .next u ∧ t = u.bookkeeping := by
    intro a ha
    cases a with
    | next u => injection ha with ha; exact ⟨u, rfl, ha.symm⟩
    | fault r => nomatch r
    | refused r => simp [bookkeepingAfter] at ha
  obtain ⟨u, hu, rfl⟩ := key _ h
  refine ⟨u, rfl, ?_⟩
  cases hd : decode s.fetch.1 with
  | error e =>
    rw [executeWord_error hd] at hu
    injection hu with hu
    exact .inr ⟨e, rfl, hu.symm⟩
  | ok i =>
    rw [executeWord_ok hd] at hu
    obtain ⟨m, out, he, ha⟩ := exec_effect i s.fetch.2
    rcases ha with ha | ⟨ha, _⟩
    · exact .inl ⟨i, m, out, rfl, he, ha.symm.trans hu⟩
    · rw [ha] at hu
      simp at hu

/-- The bookkeeping: `Count`, and an interrupt or none. -/
theorem bookkeeping_cases (u : State) :
    (interruptAdmitted u.cause u.status = true ∧ u.bookkeeping = u.clearZero.tick.takeException .int) ∨
    (interruptAdmitted u.cause u.status = false ∧ u.bookkeeping = u.clearZero.tick) := by
  have hc : u.clearZero.tick.cause = u.cause := by
    rw [State.cause_eq, State.slot_tick, if_neg (by decide)]
    rfl
  have hs : u.clearZero.tick.status = u.status := by
    rw [State.status_eq, State.slot_tick, if_neg (by decide)]
    rfl
  unfold State.bookkeeping State.admission
  rw [hc, hs]
  cases interruptAdmitted u.cause u.status
  · exact .inr ⟨rfl, rfl⟩
  · exact .inl ⟨rfl, rfl⟩

/-! ### What survives the control outcome and the bookkeeping -/

theorem finish_gpr {u t : State} {out : Control} (h : u.finish out = .next t) : t.gpr = u.gpr := by
  rcases finish_cases h with ⟨_, rfl⟩ | ⟨_, _, _, rfl⟩ | ⟨_, _, rfl⟩ | ⟨_, _, _, rfl⟩ | ⟨_, _, rfl⟩ <;> simp

theorem finish_mem {u t : State} {out : Control} (h : u.finish out = .next t) : t.mem = u.mem := by
  rcases finish_cases h with ⟨_, rfl⟩ | ⟨_, _, _, rfl⟩ | ⟨_, _, rfl⟩ | ⟨_, _, _, rfl⟩ | ⟨_, _, rfl⟩ <;> simp

theorem finish_pairs {u t : State} {out : Control} (h : u.finish out = .next t) : SamePairs u t := by
  rcases finish_cases h with ⟨_, rfl⟩ | ⟨_, _, _, rfl⟩ | ⟨_, _, rfl⟩ | ⟨_, _, _, rfl⟩ | ⟨_, _, rfl⟩ <;> simp [SamePairs]

theorem finish_events {u t : State} {out : Control} (h : u.finish out = .next t) : t.events = u.events := by
  rcases finish_cases h with ⟨_, rfl⟩ | ⟨_, _, _, rfl⟩ | ⟨_, _, rfl⟩ | ⟨_, _, _, rfl⟩ | ⟨_, _, rfl⟩ <;> simp

/-- An exception writes `Status`, `Cause` and `EPC` only. -/
theorem State.slot_takeException_other (s : State) (code : ExcCode) {n : Reg} (h : n ∉ [12#5, 13#5, 14#5]) :
    (s.takeException code).slot n = s.slot n := by
  simp only [List.mem_cons, List.not_mem_nil, or_false, not_or] at h
  cases he : statusEXL s.status
  · rw [State.slot_takeException he, if_neg h.1, if_neg h.2.1, if_neg h.2.2]
  · rw [State.slot_takeException_nested he, if_neg h.2.1]

theorem finish_slot {u t : State} {out : Control} (h : u.finish out = .next t) {n : Reg} (hn : n ∉ [12#5, 13#5, 14#5]) :
    t.slot n = u.slot n := by
  rcases finish_cases h with ⟨_, rfl⟩ | ⟨_, _, _, rfl⟩ | ⟨_, _, rfl⟩ | ⟨_, _, _, rfl⟩ | ⟨_, _, rfl⟩
  · simp
  · rfl
  · rfl
  · rfl
  · exact State.slot_takeException_other _ _ hn

theorem reg_bookkeeping (u : State) (r : Reg) : u.bookkeeping.reg r = u.reg r := by
  rcases bookkeeping_cases u with ⟨_, h⟩ | ⟨_, h⟩ <;> rw [h] <;> simp

theorem bookkeeping_mem (u : State) : u.bookkeeping.mem = u.mem := by
  rcases bookkeeping_cases u with ⟨_, h⟩ | ⟨_, h⟩ <;> rw [h] <;> simp

theorem bookkeeping_pairs (u : State) : SamePairs u u.bookkeeping := by
  rcases bookkeeping_cases u with ⟨_, h⟩ | ⟨_, h⟩ <;> rw [h] <;> simp [SamePairs]

theorem bookkeeping_events (u : State) : u.bookkeeping.events = u.events := by
  rcases bookkeeping_cases u with ⟨_, h⟩ | ⟨_, h⟩ <;> rw [h] <;> simp

theorem slot_bookkeeping (u : State) {n : Reg} (hn : n ∉ [9#5, 12#5, 13#5, 14#5]) :
    u.bookkeeping.slot n = u.slot n := by
  simp only [List.mem_cons, List.not_mem_nil, or_false, not_or] at hn
  have h0 : u.clearZero.tick.slot n = u.slot n := by
    rw [State.slot_tick, if_neg hn.1]
    rfl
  rcases bookkeeping_cases u with ⟨_, h⟩ | ⟨_, h⟩ <;> rw [h]
  · rw [State.slot_takeException_other _ _ (by simpa using hn.2), h0]
  · exact h0

theorem slot_count_bookkeeping (u : State) : u.bookkeeping.slot 9#5 = u.slot 9#5 + 1#32 := by
  rcases bookkeeping_cases u with ⟨_, h⟩ | ⟨_, h⟩ <;> rw [h]
  · rw [State.slot_takeException_other _ _ (by decide), State.slot_tick, if_pos rfl]
    rfl
  · rw [State.slot_tick, if_pos rfl]
    rfl

/-- Every exception this block raises goes to one of four addresses (R303). -/
theorem State.isEntryPoint_takeException (s : State) {code : ExcCode}
    (h : code = .int ∨ code = .adEL ∨ code = .adES ∨ code = .sys ∨ code = .bp) :
    isEntryPoint (s.takeException code).pc := by
  rw [State.takeException_pc]
  unfold vectorBase isEntryPoint
  rcases h with rfl | rfl | rfl | rfl | rfl <;> split <;> split <;>
    simp [vectorOffset, Config.vecCommon, Config.vecInterrupt, Config.excBaseBoot, Config.excBaseNormal]

/-- The bookkeeping moves `pc` only to deliver an interrupt. -/
theorem pc_bookkeeping (u : State) :
    (isEntryPoint u.bookkeeping.pc ∧ u.bookkeeping.isBranching = false ∧ u.bookkeeping.delaySlot = 0 ∧
      interruptAdmitted u.cause u.status = true) ∨
    (u.bookkeeping.pc = u.pc ∧ u.bookkeeping.isBranching = u.isBranching ∧ u.bookkeeping.delaySlot = u.delaySlot) := by
  rcases bookkeeping_cases u with ⟨ha, h⟩ | ⟨_, h⟩ <;> rw [h]
  · exact .inl ⟨State.isEntryPoint_takeException _ (.inl rfl), rfl, rfl, ha⟩
  · exact .inr ⟨rfl, rfl, rfl⟩

/-- An interrupt line sets no bit of `Cause` but its pending bit. -/
theorem getLsbD_lines {lines : Word} (h : lines &&& 0x00008C00#32 = lines) {b : Nat} (hb : b ≠ 10 ∧ b ≠ 11 ∧ b ≠ 15) :
    lines.getLsbD b = false := by
  rw [← h, BitVec.getLsbD_and]
  by_cases hlt : b < 32
  · have : ∀ b : Fin 32, b.val ≠ 10 ∧ b.val ≠ 11 ∧ b.val ≠ 15 → (0x00008C00#32).getLsbD b.val = false := by decide
    rw [this ⟨b, hlt⟩ hb]
    simp
  · rw [BitVec.getLsbD_of_ge (0x00008C00#32) b (by omega)]
    simp

end Sys2Proof.Machine
end

