-- ==== Sys2Proof/Laws/PerInstr.lean ====
section
/-! SUPPORT. A family of statements with one lemma per instruction: the encoder's word lies in the instruction's row of
`opcode_table.json` (its bits under the row's mask are the row's). -/

namespace Sys2Proof.Laws.TableRow

open Sys2Proof

/-- The mask of an instruction's row. -/
def rowMask : Instr → Word
  | .j _ => 0xFC000000#32
  | .jal _ => 0xFC000000#32
  | .jr _ => 0xFC00003F#32
  | .jalr _ _ => 0xFC00003F#32
  | .beq _ _ _ => 0xFC000000#32
  | .bne _ _ _ => 0xFC000000#32
  | .blez _ _ => 0xFC000000#32
  | .bgtz _ _ => 0xFC000000#32
  | .bltz _ _ => 0xFC1F0000#32
  | .bgez _ _ => 0xFC1F0000#32
  | .beql _ _ _ => 0xFC000000#32
  | .bnel _ _ _ => 0xFC000000#32
  | .blezl _ _ => 0xFC000000#32
  | .bgtzl _ _ => 0xFC000000#32
  | .bltzl _ _ => 0xFC1F0000#32
  | .bgezl _ _ => 0xFC1F0000#32
  | .bltzal _ _ => 0xFC1F0000#32
  | .bgezal _ _ => 0xFC1F0000#32
  | .bltzall _ _ => 0xFC1F0000#32
  | .bgezall _ _ => 0xFC1F0000#32
  | .lb _ _ _ => 0xFC000000#32
  | .lbu _ _ _ => 0xFC000000#32
  | .lh _ _ _ => 0xFC000000#32
  | .lhu _ _ _ => 0xFC000000#32
  | .lw _ _ _ => 0xFC000000#32
  | .lwu _ _ _ => 0xFC000000#32
  | .ld _ _ _ => 0xFC000000#32
  | .lq _ _ _ => 0xFC000000#32
  | .sb _ _ _ => 0xFC000000#32
  | .sh _ _ _ => 0xFC000000#32
  | .sw _ _ _ => 0xFC000000#32
  | .sd _ _ _ => 0xFC000000#32
  | .sq _ _ _ => 0xFC000000#32
  | .lwl _ _ _ => 0xFC000000#32
  | .lwr _ _ _ => 0xFC000000#32
  | .ldl _ _ _ => 0xFC000000#32
  | .ldr _ _ _ => 0xFC000000#32
  | .swl _ _ _ => 0xFC000000#32
  | .swr _ _ _ => 0xFC000000#32
  | .sdl _ _ _ => 0xFC000000#32
  | .sdr _ _ _ => 0xFC000000#32
  | .add _ _ _ => 0xFC00003F#32
  | .addu _ _ _ => 0xFC00003F#32
  | .sub _ _ _ => 0xFC00003F#32
  | .subu _ _ _ => 0xFC00003F#32
  | .addi _ _ _ => 0xFC000000#32
  | .addiu _ _ _ => 0xFC000000#32
  | .dadd _ _ _ => 0xFC00003F#32
  | .daddu _ _ _ => 0xFC00003F#32
  | .dsub _ _ _ => 0xFC00003F#32
  | .dsubu _ _ _ => 0xFC00003F#32
  | .daddi _ _ _ => 0xFC000000#32
  | .daddiu _ _ _ => 0xFC000000#32
  | .and _ _ _ => 0xFC00003F#32
  | .or _ _ _ => 0xFC00003F#32
  | .xor _ _ _ => 0xFC00003F#32
  | .nor _ _ _ => 0xFC00003F#32
  | .andi _ _ _ => 0xFC000000#32
  | .ori _ _ _ => 0xFC000000#32
  | .xori _ _ _ => 0xFC000000#32
  | .lui _ _ => 0xFC000000#32
  | .slt _ _ _ => 0xFC00003F#32
  | .sltu _ _ _ => 0xFC00003F#32
  | .slti _ _ _ => 0xFC000000#32
  | .sltiu _ _ _ => 0xFC000000#32
  | .sll _ _ _ => 0xFC00003F#32
  | .srl _ _ _ => 0xFC00003F#32
  | .sra _ _ _ => 0xFC00003F#32
  | .sllv _ _ _ => 0xFC00003F#32
  | .srlv _ _ _ => 0xFC00003F#32
  | .srav _ _ _ => 0xFC00003F#32
  | .dsll _ _ _ => 0xFC00003F#32
  | .dsrl _ _ _ => 0xFC00003F#32
  | .dsra _ _ _ => 0xFC00003F#32
  | .dsll32 _ _ _ => 0xFC00003F#32
  | .dsrl32 _ _ _ => 0xFC00003F#32
  | .dsra32 _ _ _ => 0xFC00003F#32
  | .dsllv _ _ _ => 0xFC00003F#32
  | .dsrlv _ _ _ => 0xFC00003F#32
  | .dsrav _ _ _ => 0xFC00003F#32
  | .mult _ _ _ => 0xFC00003F#32
  | .multu _ _ _ => 0xFC00003F#32
  | .mult1 _ _ _ => 0xFC00003F#32
  | .multu1 _ _ _ => 0xFC00003F#32
  | .div _ _ => 0xFC00003F#32
  | .divu _ _ => 0xFC00003F#32
  | .div1 _ _ => 0xFC00003F#32
  | .divu1 _ _ => 0xFC00003F#32
  | .mfhi _ => 0xFC00003F#32
  | .mflo _ => 0xFC00003F#32
  | .mthi _ => 0xFC00003F#32
  | .mtlo _ => 0xFC00003F#32
  | .mfhi1 _ => 0xFC00003F#32
  | .mflo1 _ => 0xFC00003F#32
  | .mthi1 _ => 0xFC00003F#32
  | .mtlo1 _ => 0xFC00003F#32
  | .movz _ _ _ => 0xFC00003F#32
  | .movn _ _ _ => 0xFC00003F#32
  | .nop => 0xFFFFFFFF#32
  | .syscall _ => 0xFC00003F#32
  | .breakpoint _ => 0xFC00003F#32
  | .mfc0 _ _ => 0xFFE00000#32
  | .mtc0 _ _ => 0xFFE00000#32
  | .eret => 0xFFE0003F#32
  | .ei => 0xFFE0003F#32
  | .di => 0xFFE0003F#32
  | .sync _ => 0xFC00003F#32
  | .cache _ _ _ => 0xFC000000#32
  | .pref _ _ _ => 0xFC000000#32
  | .tlbr => 0xFFE0003F#32
  | .tlbwi => 0xFFE0003F#32
  | .tlbwr => 0xFFE0003F#32
  | .tlbp => 0xFFE0003F#32

/-- The bits of an instruction's row. -/
def rowBits : Instr → Word
  | .j _ => 0x08000000#32
  | .jal _ => 0x0C000000#32
  | .jr _ => 0x00000008#32
  | .jalr _ _ => 0x00000009#32
  | .beq _ _ _ => 0x10000000#32
  | .bne _ _ _ => 0x14000000#32
  | .blez _ _ => 0x18000000#32
  | .bgtz _ _ => 0x1C000000#32
  | .bltz _ _ => 0x04000000#32
  | .bgez _ _ => 0x04010000#32
  | .beql _ _ _ => 0x50000000#32
  | .bnel _ _ _ => 0x54000000#32
  | .blezl _ _ => 0x58000000#32
  | .bgtzl _ _ => 0x5C000000#32
  | .bltzl _ _ => 0x04020000#32
  | .bgezl _ _ => 0x04030000#32
  | .bltzal _ _ => 0x04100000#32
  | .bgezal _ _ => 0x04110000#32
  | .bltzall _ _ => 0x04120000#32
  | .bgezall _ _ => 0x04130000#32
  | .lb _ _ _ => 0x80000000#32
  | .lbu _ _ _ => 0x90000000#32
  | .lh _ _ _ => 0x84000000#32
  | .lhu _ _ _ => 0x94000000#32
  | .lw _ _ _ => 0x8C000000#32
  | .lwu _ _ _ => 0x9C000000#32
  | .ld _ _ _ => 0xDC000000#32
  | .lq _ _ _ => 0x78000000#32
  | .sb _ _ _ => 0xA0000000#32
  | .sh _ _ _ => 0xA4000000#32
  | .sw _ _ _ => 0xAC000000#32
  | .sd _ _ _ => 0xFC000000#32
  | .sq _ _ _ => 0x7C000000#32
  | .lwl _ _ _ => 0x88000000#32
  | .lwr _ _ _ => 0x98000000#32
  | .ldl _ _ _ => 0x68000000#32
  | .ldr _ _ _ => 0x6C000000#32
  | .swl _ _ _ => 0xA8000000#32
  | .swr _ _ _ => 0xB8000000#32
  | .sdl _ _ _ => 0xB0000000#32
  | .sdr _ _ _ => 0xB4000000#32
  | .add _ _ _ => 0x00000020#32
  | .addu _ _ _ => 0x00000021#32
  | .sub _ _ _ => 0x00000022#32
  | .subu _ _ _ => 0x00000023#32
  | .addi _ _ _ => 0x20000000#32
  | .addiu _ _ _ => 0x24000000#32
  | .dadd _ _ _ => 0x0000002C#32
  | .daddu _ _ _ => 0x0000002D#32
  | .dsub _ _ _ => 0x0000002E#32
  | .dsubu _ _ _ => 0x0000002F#32
  | .daddi _ _ _ => 0x60000000#32
  | .daddiu _ _ _ => 0x64000000#32
  | .and _ _ _ => 0x00000024#32
  | .or _ _ _ => 0x00000025#32
  | .xor _ _ _ => 0x00000026#32
  | .nor _ _ _ => 0x00000027#32
  | .andi _ _ _ => 0x30000000#32
  | .ori _ _ _ => 0x34000000#32
  | .xori _ _ _ => 0x38000000#32
  | .lui _ _ => 0x3C000000#32
  | .slt _ _ _ => 0x0000002A#32
  | .sltu _ _ _ => 0x0000002B#32
  | .slti _ _ _ => 0x28000000#32
  | .sltiu _ _ _ => 0x2C000000#32
  | .sll _ _ _ => 0x00000000#32
  | .srl _ _ _ => 0x00000002#32
  | .sra _ _ _ => 0x00000003#32
  | .sllv _ _ _ => 0x00000004#32
  | .srlv _ _ _ => 0x00000006#32
  | .srav _ _ _ => 0x00000007#32
  | .dsll _ _ _ => 0x00000038#32
  | .dsrl _ _ _ => 0x0000003A#32
  | .dsra _ _ _ => 0x0000003B#32
  | .dsll32 _ _ _ => 0x0000003C#32
  | .dsrl32 _ _ _ => 0x0000003E#32
  | .dsra32 _ _ _ => 0x0000003F#32
  | .dsllv _ _ _ => 0x00000014#32
  | .dsrlv _ _ _ => 0x00000016#32
  | .dsrav _ _ _ => 0x00000017#32
  | .mult _ _ _ => 0x00000018#32
  | .multu _ _ _ => 0x00000019#32
  | .mult1 _ _ _ => 0x70000018#32
  | .multu1 _ _ _ => 0x70000019#32
  | .div _ _ => 0x0000001A#32
  | .divu _ _ => 0x0000001B#32
  | .div1 _ _ => 0x7000001A#32
  | .divu1 _ _ => 0x7000001B#32
  | .mfhi _ => 0x00000010#32
  | .mflo _ => 0x00000012#32
  | .mthi _ => 0x00000011#32
  | .mtlo _ => 0x00000013#32
  | .mfhi1 _ => 0x70000010#32
  | .mflo1 _ => 0x70000012#32
  | .mthi1 _ => 0x70000011#32
  | .mtlo1 _ => 0x70000013#32
  | .movz _ _ _ => 0x0000000A#32
  | .movn _ _ _ => 0x0000000B#32
  | .nop => 0x00000000#32
  | .syscall _ => 0x0000000C#32
  | .breakpoint _ => 0x0000000D#32
  | .mfc0 _ _ => 0x40000000#32
  | .mtc0 _ _ => 0x40800000#32
  | .eret => 0x42000018#32
  | .ei => 0x42000038#32
  | .di => 0x42000039#32
  | .sync _ => 0x0000000F#32
  | .cache _ _ _ => 0xBC000000#32
  | .pref _ _ _ => 0xCC000000#32
  | .tlbr => 0x42000001#32
  | .tlbwi => 0x42000002#32
  | .tlbwr => 0x42000006#32
  | .tlbp => 0x42000008#32

/-- The word of `i` is of the row of `i`. -/
def Statement (i : Instr) : Prop := encode i &&& rowMask i = rowBits i

/-! ### The formats under the masks of the table -/

theorem rType_and (op a : BitVec 6) (rs rt rd sa b c d e : BitVec 5) (funct f : BitVec 6) :
    rType op rs rt rd sa funct &&& rType a b c d e f =
      rType (op &&& a) (rs &&& b) (rt &&& c) (rd &&& d) (sa &&& e) (funct &&& f) := by
  unfold rType
  rw [BitVec.and_append, BitVec.and_append, BitVec.and_append, BitVec.and_append, BitVec.and_append]

theorem iType_and (op a : BitVec 6) (rs rt b c : BitVec 5) (imm d : BitVec 16) :
    iType op rs rt imm &&& iType a b c d = iType (op &&& a) (rs &&& b) (rt &&& c) (imm &&& d) := by
  unfold iType
  rw [BitVec.and_append, BitVec.and_append, BitVec.and_append]

theorem all6 (x : BitVec 6) : x &&& 0x3F#6 = x := by rw [show (0x3F#6) = BitVec.allOnes 6 by decide, BitVec.and_allOnes]
theorem all5 (x : BitVec 5) : x &&& 0x1F#5 = x := by rw [show (0x1F#5) = BitVec.allOnes 5 by decide, BitVec.and_allOnes]

/-- Rows selected by `op` and `funct`. -/
theorem rType_funct (op : BitVec 6) (rs rt rd sa : BitVec 5) (funct : BitVec 6) :
    rType op rs rt rd sa funct &&& 0xFC00003F#32 = rType op 0#5 0#5 0#5 0#5 funct := by
  rw [show (0xFC00003F#32) = rType 0x3F#6 0#5 0#5 0#5 0#5 0x3F#6 by decide, rType_and]
  simp only [BitVec.and_zero, all6]

/-- Rows selected by `op` and `rs`. -/
theorem rType_rs (op : BitVec 6) (rs rt rd sa : BitVec 5) (funct : BitVec 6) :
    rType op rs rt rd sa funct &&& 0xFFE00000#32 = rType op rs 0#5 0#5 0#5 0#6 := by
  rw [show (0xFFE00000#32) = rType 0x3F#6 0x1F#5 0#5 0#5 0#5 0#6 by decide, rType_and]
  simp only [BitVec.and_zero, all6, all5]

/-- Rows selected by `op`. -/
theorem iType_op (op : BitVec 6) (rs rt : BitVec 5) (imm : BitVec 16) :
    iType op rs rt imm &&& 0xFC000000#32 = iType op 0#5 0#5 0#16 := by
  rw [show (0xFC000000#32) = iType 0x3F#6 0#5 0#5 0#16 by decide, iType_and]
  simp only [BitVec.and_zero, all6]

/-- Rows selected by `op` and `rt`. -/
theorem iType_rt (op : BitVec 6) (rs rt : BitVec 5) (imm : BitVec 16) :
    iType op rs rt imm &&& 0xFC1F0000#32 = iType op 0#5 rt 0#16 := by
  rw [show (0xFC1F0000#32) = iType 0x3F#6 0#5 0x1F#5 0#16 by decide, iType_and]
  simp only [BitVec.and_zero, all6, all5]

theorem jType_op (op : BitVec 6) (index : BitVec 26) : jType op index &&& 0xFC000000#32 = jType op 0#26 := by
  rw [show (0xFC000000#32) = jType 0x3F#6 0#26 by decide]
  unfold jType
  rw [BitVec.and_append, BitVec.and_zero, all6]

theorem codeType_funct (code : BitVec 20) (funct : BitVec 6) :
    codeType code funct &&& 0xFC00003F#32 = codeType 0#20 funct := by
  rw [show (0xFC00003F#32) = (0x3F#6 ++ 0#20 ++ 0x3F#6 : BitVec (6 + 20 + 6)) by decide]
  unfold codeType
  rw [BitVec.and_append, BitVec.and_append, BitVec.and_zero, all6, all6]

/-! ### The instructions -/

theorem j (index : BitVec 26) : Statement (.j index) :=
  (jType_op _ _).trans rfl
theorem jal (index : BitVec 26) : Statement (.jal index) :=
  (jType_op _ _).trans rfl
theorem jr (rs : Reg) : Statement (.jr rs) :=
  (rType_funct _ _ _ _ _ _).trans rfl
theorem jalr (rd : Reg) (rs : Reg) : Statement (.jalr rd rs) :=
  (rType_funct _ _ _ _ _ _).trans rfl
theorem beq (rs : Reg) (rt : Reg) (offset : BitVec 16) : Statement (.beq rs rt offset) :=
  (iType_op _ _ _ _).trans rfl
theorem bne (rs : Reg) (rt : Reg) (offset : BitVec 16) : Statement (.bne rs rt offset) :=
  (iType_op _ _ _ _).trans rfl
theorem blez (rs : Reg) (offset : BitVec 16) : Statement (.blez rs offset) :=
  (iType_op _ _ _ _).trans rfl
theorem bgtz (rs : Reg) (offset : BitVec 16) : Statement (.bgtz rs offset) :=
  (iType_op _ _ _ _).trans rfl
theorem bltz (rs : Reg) (offset : BitVec 16) : Statement (.bltz rs offset) :=
  (iType_rt _ _ _ _).trans rfl
theorem bgez (rs : Reg) (offset : BitVec 16) : Statement (.bgez rs offset) :=
  (iType_rt _ _ _ _).trans rfl
theorem beql (rs : Reg) (rt : Reg) (offset : BitVec 16) : Statement (.beql rs rt offset) :=
  (iType_op _ _ _ _).trans rfl
theorem bnel (rs : Reg) (rt : Reg) (offset : BitVec 16) : Statement (.bnel rs rt offset) :=
  (iType_op _ _ _ _).trans rfl
theorem blezl (rs : Reg) (offset : BitVec 16) : Statement (.blezl rs offset) :=
  (iType_op _ _ _ _).trans rfl
theorem bgtzl (rs : Reg) (offset : BitVec 16) : Statement (.bgtzl rs offset) :=
  (iType_op _ _ _ _).trans rfl
theorem bltzl (rs : Reg) (offset : BitVec 16) : Statement (.bltzl rs offset) :=
  (iType_rt _ _ _ _).trans rfl
theorem bgezl (rs : Reg) (offset : BitVec 16) : Statement (.bgezl rs offset) :=
  (iType_rt _ _ _ _).trans rfl
theorem bltzal (rs : Reg) (offset : BitVec 16) : Statement (.bltzal rs offset) :=
  (iType_rt _ _ _ _).trans rfl
theorem bgezal (rs : Reg) (offset : BitVec 16) : Statement (.bgezal rs offset) :=
  (iType_rt _ _ _ _).trans rfl
theorem bltzall (rs : Reg) (offset : BitVec 16) : Statement (.bltzall rs offset) :=
  (iType_rt _ _ _ _).trans rfl
theorem bgezall (rs : Reg) (offset : BitVec 16) : Statement (.bgezall rs offset) :=
  (iType_rt _ _ _ _).trans rfl
theorem lb (rt : Reg) (base : Reg) (offset : BitVec 16) : Statement (.lb rt base offset) :=
  (iType_op _ _ _ _).trans rfl
theorem lbu (rt : Reg) (base : Reg) (offset : BitVec 16) : Statement (.lbu rt base offset) :=
  (iType_op _ _ _ _).trans rfl
theorem lh (rt : Reg) (base : Reg) (offset : BitVec 16) : Statement (.lh rt base offset) :=
  (iType_op _ _ _ _).trans rfl
theorem lhu (rt : Reg) (base : Reg) (offset : BitVec 16) : Statement (.lhu rt base offset) :=
  (iType_op _ _ _ _).trans rfl
theorem lw (rt : Reg) (base : Reg) (offset : BitVec 16) : Statement (.lw rt base offset) :=
  (iType_op _ _ _ _).trans rfl
theorem lwu (rt : Reg) (base : Reg) (offset : BitVec 16) : Statement (.lwu rt base offset) :=
  (iType_op _ _ _ _).trans rfl
theorem ld (rt : Reg) (base : Reg) (offset : BitVec 16) : Statement (.ld rt base offset) :=
  (iType_op _ _ _ _).trans rfl
theorem lq (rt : Reg) (base : Reg) (offset : BitVec 16) : Statement (.lq rt base offset) :=
  (iType_op _ _ _ _).trans rfl
theorem sb (rt : Reg) (base : Reg) (offset : BitVec 16) : Statement (.sb rt base offset) :=
  (iType_op _ _ _ _).trans rfl
theorem sh (rt : Reg) (base : Reg) (offset : BitVec 16) : Statement (.sh rt base offset) :=
  (iType_op _ _ _ _).trans rfl
theorem sw (rt : Reg) (base : Reg) (offset : BitVec 16) : Statement (.sw rt base offset) :=
  (iType_op _ _ _ _).trans rfl
theorem sd (rt : Reg) (base : Reg) (offset : BitVec 16) : Statement (.sd rt base offset) :=
  (iType_op _ _ _ _).trans rfl
theorem sq (rt : Reg) (base : Reg) (offset : BitVec 16) : Statement (.sq rt base offset) :=
  (iType_op _ _ _ _).trans rfl
theorem lwl (rt : Reg) (base : Reg) (offset : BitVec 16) : Statement (.lwl rt base offset) :=
  (iType_op _ _ _ _).trans rfl
theorem lwr (rt : Reg) (base : Reg) (offset : BitVec 16) : Statement (.lwr rt base offset) :=
  (iType_op _ _ _ _).trans rfl
theorem ldl (rt : Reg) (base : Reg) (offset : BitVec 16) : Statement (.ldl rt base offset) :=
  (iType_op _ _ _ _).trans rfl
theorem ldr (rt : Reg) (base : Reg) (offset : BitVec 16) : Statement (.ldr rt base offset) :=
  (iType_op _ _ _ _).trans rfl
theorem swl (rt : Reg) (base : Reg) (offset : BitVec 16) : Statement (.swl rt base offset) :=
  (iType_op _ _ _ _).trans rfl
theorem swr (rt : Reg) (base : Reg) (offset : BitVec 16) : Statement (.swr rt base offset) :=
  (iType_op _ _ _ _).trans rfl
theorem sdl (rt : Reg) (base : Reg) (offset : BitVec 16) : Statement (.sdl rt base offset) :=
  (iType_op _ _ _ _).trans rfl
theorem sdr (rt : Reg) (base : Reg) (offset : BitVec 16) : Statement (.sdr rt base offset) :=
  (iType_op _ _ _ _).trans rfl
theorem add (rd : Reg) (rs : Reg) (rt : Reg) : Statement (.add rd rs rt) :=
  (rType_funct _ _ _ _ _ _).trans rfl
theorem addu (rd : Reg) (rs : Reg) (rt : Reg) : Statement (.addu rd rs rt) :=
  (rType_funct _ _ _ _ _ _).trans rfl
theorem sub (rd : Reg) (rs : Reg) (rt : Reg) : Statement (.sub rd rs rt) :=
  (rType_funct _ _ _ _ _ _).trans rfl
theorem subu (rd : Reg) (rs : Reg) (rt : Reg) : Statement (.subu rd rs rt) :=
  (rType_funct _ _ _ _ _ _).trans rfl
theorem addi (rt : Reg) (rs : Reg) (imm : BitVec 16) : Statement (.addi rt rs imm) :=
  (iType_op _ _ _ _).trans rfl
theorem addiu (rt : Reg) (rs : Reg) (imm : BitVec 16) : Statement (.addiu rt rs imm) :=
  (iType_op _ _ _ _).trans rfl
theorem dadd (rd : Reg) (rs : Reg) (rt : Reg) : Statement (.dadd rd rs rt) :=
  (rType_funct _ _ _ _ _ _).trans rfl
theorem daddu (rd : Reg) (rs : Reg) (rt : Reg) : Statement (.daddu rd rs rt) :=
  (rType_funct _ _ _ _ _ _).trans rfl
theorem dsub (rd : Reg) (rs : Reg) (rt : Reg) : Statement (.dsub rd rs rt) :=
  (rType_funct _ _ _ _ _ _).trans rfl
theorem dsubu (rd : Reg) (rs : Reg) (rt : Reg) : Statement (.dsubu rd rs rt) :=
  (rType_funct _ _ _ _ _ _).trans rfl
theorem daddi (rt : Reg) (rs : Reg) (imm : BitVec 16) : Statement (.daddi rt rs imm) :=
  (iType_op _ _ _ _).trans rfl
theorem daddiu (rt : Reg) (rs : Reg) (imm : BitVec 16) : Statement (.daddiu rt rs imm) :=
  (iType_op _ _ _ _).trans rfl
theorem and (rd : Reg) (rs : Reg) (rt : Reg) : Statement (.and rd rs rt) :=
  (rType_funct _ _ _ _ _ _).trans rfl
theorem or (rd : Reg) (rs : Reg) (rt : Reg) : Statement (.or rd rs rt) :=
  (rType_funct _ _ _ _ _ _).trans rfl
theorem xor (rd : Reg) (rs : Reg) (rt : Reg) : Statement (.xor rd rs rt) :=
  (rType_funct _ _ _ _ _ _).trans rfl
theorem nor (rd : Reg) (rs : Reg) (rt : Reg) : Statement (.nor rd rs rt) :=
  (rType_funct _ _ _ _ _ _).trans rfl
theorem andi (rt : Reg) (rs : Reg) (imm : BitVec 16) : Statement (.andi rt rs imm) :=
  (iType_op _ _ _ _).trans rfl
theorem ori (rt : Reg) (rs : Reg) (imm : BitVec 16) : Statement (.ori rt rs imm) :=
  (iType_op _ _ _ _).trans rfl
theorem xori (rt : Reg) (rs : Reg) (imm : BitVec 16) : Statement (.xori rt rs imm) :=
  (iType_op _ _ _ _).trans rfl
theorem lui (rt : Reg) (imm : BitVec 16) : Statement (.lui rt imm) :=
  (iType_op _ _ _ _).trans rfl
theorem slt (rd : Reg) (rs : Reg) (rt : Reg) : Statement (.slt rd rs rt) :=
  (rType_funct _ _ _ _ _ _).trans rfl
theorem sltu (rd : Reg) (rs : Reg) (rt : Reg) : Statement (.sltu rd rs rt) :=
  (rType_funct _ _ _ _ _ _).trans rfl
theorem slti (rt : Reg) (rs : Reg) (imm : BitVec 16) : Statement (.slti rt rs imm) :=
  (iType_op _ _ _ _).trans rfl
theorem sltiu (rt : Reg) (rs : Reg) (imm : BitVec 16) : Statement (.sltiu rt rs imm) :=
  (iType_op _ _ _ _).trans rfl
theorem sll (rd : Reg) (rt : Reg) (sa : BitVec 5) : Statement (.sll rd rt sa) :=
  (rType_funct _ _ _ _ _ _).trans rfl
theorem srl (rd : Reg) (rt : Reg) (sa : BitVec 5) : Statement (.srl rd rt sa) :=
  (rType_funct _ _ _ _ _ _).trans rfl
theorem sra (rd : Reg) (rt : Reg) (sa : BitVec 5) : Statement (.sra rd rt sa) :=
  (rType_funct _ _ _ _ _ _).trans rfl
theorem sllv (rd : Reg) (rt : Reg) (rs : Reg) : Statement (.sllv rd rt rs) :=
  (rType_funct _ _ _ _ _ _).trans rfl
theorem srlv (rd : Reg) (rt : Reg) (rs : Reg) : Statement (.srlv rd rt rs) :=
  (rType_funct _ _ _ _ _ _).trans rfl
theorem srav (rd : Reg) (rt : Reg) (rs : Reg) : Statement (.srav rd rt rs) :=
  (rType_funct _ _ _ _ _ _).trans rfl
theorem dsll (rd : Reg) (rt : Reg) (sa : BitVec 5) : Statement (.dsll rd rt sa) :=
  (rType_funct _ _ _ _ _ _).trans rfl
theorem dsrl (rd : Reg) (rt : Reg) (sa : BitVec 5) : Statement (.dsrl rd rt sa) :=
  (rType_funct _ _ _ _ _ _).trans rfl
theorem dsra (rd : Reg) (rt : Reg) (sa : BitVec 5) : Statement (.dsra rd rt sa) :=
  (rType_funct _ _ _ _ _ _).trans rfl
theorem dsll32 (rd : Reg) (rt : Reg) (sa : BitVec 5) : Statement (.dsll32 rd rt sa) :=
  (rType_funct _ _ _ _ _ _).trans rfl
theorem dsrl32 (rd : Reg) (rt : Reg) (sa : BitVec 5) : Statement (.dsrl32 rd rt sa) :=
  (rType_funct _ _ _ _ _ _).trans rfl
theorem dsra32 (rd : Reg) (rt : Reg) (sa : BitVec 5) : Statement (.dsra32 rd rt sa) :=
  (rType_funct _ _ _ _ _ _).trans rfl
theorem dsllv (rd : Reg) (rt : Reg) (rs : Reg) : Statement (.dsllv rd rt rs) :=
  (rType_funct _ _ _ _ _ _).trans rfl
theorem dsrlv (rd : Reg) (rt : Reg) (rs : Reg) : Statement (.dsrlv rd rt rs) :=
  (rType_funct _ _ _ _ _ _).trans rfl
theorem dsrav (rd : Reg) (rt : Reg) (rs : Reg) : Statement (.dsrav rd rt rs) :=
  (rType_funct _ _ _ _ _ _).trans rfl
theorem mult (rd : Reg) (rs : Reg) (rt : Reg) : Statement (.mult rd rs rt) :=
  (rType_funct _ _ _ _ _ _).trans rfl
theorem multu (rd : Reg) (rs : Reg) (rt : Reg) : Statement (.multu rd rs rt) :=
  (rType_funct _ _ _ _ _ _).trans rfl
theorem mult1 (rd : Reg) (rs : Reg) (rt : Reg) : Statement (.mult1 rd rs rt) :=
  (rType_funct _ _ _ _ _ _).trans rfl
theorem multu1 (rd : Reg) (rs : Reg) (rt : Reg) : Statement (.multu1 rd rs rt) :=
  (rType_funct _ _ _ _ _ _).trans rfl
theorem div (rs : Reg) (rt : Reg) : Statement (.div rs rt) :=
  (rType_funct _ _ _ _ _ _).trans rfl
theorem divu (rs : Reg) (rt : Reg) : Statement (.divu rs rt) :=
  (rType_funct _ _ _ _ _ _).trans rfl
theorem div1 (rs : Reg) (rt : Reg) : Statement (.div1 rs rt) :=
  (rType_funct _ _ _ _ _ _).trans rfl
theorem divu1 (rs : Reg) (rt : Reg) : Statement (.divu1 rs rt) :=
  (rType_funct _ _ _ _ _ _).trans rfl
theorem mfhi (rd : Reg) : Statement (.mfhi rd) :=
  (rType_funct _ _ _ _ _ _).trans rfl
theorem mflo (rd : Reg) : Statement (.mflo rd) :=
  (rType_funct _ _ _ _ _ _).trans rfl
theorem mthi (rs : Reg) : Statement (.mthi rs) :=
  (rType_funct _ _ _ _ _ _).trans rfl
theorem mtlo (rs : Reg) : Statement (.mtlo rs) :=
  (rType_funct _ _ _ _ _ _).trans rfl
theorem mfhi1 (rd : Reg) : Statement (.mfhi1 rd) :=
  (rType_funct _ _ _ _ _ _).trans rfl
theorem mflo1 (rd : Reg) : Statement (.mflo1 rd) :=
  (rType_funct _ _ _ _ _ _).trans rfl
theorem mthi1 (rs : Reg) : Statement (.mthi1 rs) :=
  (rType_funct _ _ _ _ _ _).trans rfl
theorem mtlo1 (rs : Reg) : Statement (.mtlo1 rs) :=
  (rType_funct _ _ _ _ _ _).trans rfl
theorem movz (rd : Reg) (rs : Reg) (rt : Reg) : Statement (.movz rd rs rt) :=
  (rType_funct _ _ _ _ _ _).trans rfl
theorem movn (rd : Reg) (rs : Reg) (rt : Reg) : Statement (.movn rd rs rt) :=
  (rType_funct _ _ _ _ _ _).trans rfl
theorem nop : Statement .nop :=
  rfl
theorem syscall (code : BitVec 20) : Statement (.syscall code) :=
  (codeType_funct _ _).trans rfl
theorem breakpoint (code : BitVec 20) : Statement (.breakpoint code) :=
  (codeType_funct _ _).trans rfl
theorem mfc0 (rt : Reg) (slot : Reg) : Statement (.mfc0 rt slot) :=
  (rType_rs _ _ _ _ _ _).trans rfl
theorem mtc0 (rt : Reg) (slot : Reg) : Statement (.mtc0 rt slot) :=
  (rType_rs _ _ _ _ _ _).trans rfl
theorem eret : Statement .eret :=
  rfl
theorem ei : Statement .ei :=
  rfl
theorem di : Statement .di :=
  rfl
theorem sync (stype : BitVec 5) : Statement (.sync stype) :=
  (rType_funct _ _ _ _ _ _).trans rfl
theorem cache (operation : Reg) (base : Reg) (offset : BitVec 16) : Statement (.cache operation base offset) :=
  (iType_op _ _ _ _).trans rfl
theorem pref (hint : Reg) (base : Reg) (offset : BitVec 16) : Statement (.pref hint base offset) :=
  (iType_op _ _ _ _).trans rfl
theorem tlbr : Statement .tlbr :=
  rfl
theorem tlbwi : Statement .tlbwi :=
  rfl
theorem tlbwr : Statement .tlbwr :=
  rfl
theorem tlbp : Statement .tlbp :=
  rfl

end Sys2Proof.Laws.TableRow
end

