-- ==== Sys2Proof/Tests/Slice0.lean ====
section
/-! SUPPORT. The model's own tests: the well-formedness check, one word of every row of the opcode table written out
from its fields, small runs of one step whose results are the vectors of `95_test_vectors.md` (their ids in the
comments), and a witness for the hypotheses of every statement that has any. -/

namespace Sys2Proof.Tests

open Sys2Proof Sys2Proof.Machine Sys2Proof.Claims

/-! ### Well-formedness and the encoder -/

/-- The one check of `WellFormed.lean` refuses the one ill-formed term; its word is `NOP` (R82). -/
theorem test_wf_refuses : Instr.wf (.sll 0 0 0) = false ∧ Instr.wf (.sll 1 0 0) = true ∧ Instr.wf (.sll 0 0 1) = true ∧
    decode 0x00000000#32 = .ok .nop ∧ decode 0x00000040#32 = .ok (.sll 0 0 1) := by decide

/-! ### Decoding: every row of the table, bit by bit -/

theorem test_decode_branches_1 :
    decode 0b000010_00000001000000000000010000#32 = .ok (.j 0x40010) ∧
    decode 0b000011_00000001000000000000010000#32 = .ok (.jal 0x40010) ∧
    decode 0b000000_00100_00000_00000_00000_001000#32 = .ok (.jr 4) ∧
    decode 0b000000_00100_00000_00010_00000_001001#32 = .ok (.jalr 2 4) ∧
    decode 0b000100_00100_00101_1111111111111110#32 = .ok (.beq 4 5 0xFFFE) ∧
    decode 0b000101_00100_00101_1111111111111110#32 = .ok (.bne 4 5 0xFFFE) ∧
    decode 0b000110_00100_00000_1111111111111110#32 = .ok (.blez 4 0xFFFE) ∧
    decode 0b000111_00100_00000_1111111111111110#32 = .ok (.bgtz 4 0xFFFE) ∧
    decode 0b000001_00100_00000_1111111111111110#32 = .ok (.bltz 4 0xFFFE) ∧
    decode 0b000001_00100_00001_1111111111111110#32 = .ok (.bgez 4 0xFFFE) := by decide

theorem test_decode_branches_2 :
    decode 0b010100_00100_00101_1111111111111110#32 = .ok (.beql 4 5 0xFFFE) ∧
    decode 0b010101_00100_00101_1111111111111110#32 = .ok (.bnel 4 5 0xFFFE) ∧
    decode 0b010110_00100_00000_1111111111111110#32 = .ok (.blezl 4 0xFFFE) ∧
    decode 0b010111_00100_00000_1111111111111110#32 = .ok (.bgtzl 4 0xFFFE) ∧
    decode 0b000001_00100_00010_1111111111111110#32 = .ok (.bltzl 4 0xFFFE) ∧
    decode 0b000001_00100_00011_1111111111111110#32 = .ok (.bgezl 4 0xFFFE) ∧
    decode 0b000001_00100_10000_1111111111111110#32 = .ok (.bltzal 4 0xFFFE) ∧
    decode 0b000001_00100_10001_1111111111111110#32 = .ok (.bgezal 4 0xFFFE) ∧
    decode 0b000001_00100_10010_1111111111111110#32 = .ok (.bltzall 4 0xFFFE) ∧
    decode 0b000001_00100_10011_1111111111111110#32 = .ok (.bgezall 4 0xFFFE) := by decide

theorem test_decode_load_store_1 :
    decode 0b100000_00011_00101_1111111111111110#32 = .ok (.lb 5 3 0xFFFE) ∧
    decode 0b100100_00011_00101_1111111111111110#32 = .ok (.lbu 5 3 0xFFFE) ∧
    decode 0b100001_00011_00101_1111111111111110#32 = .ok (.lh 5 3 0xFFFE) ∧
    decode 0b100101_00011_00101_1111111111111110#32 = .ok (.lhu 5 3 0xFFFE) ∧
    decode 0b100011_00011_00101_1111111111111110#32 = .ok (.lw 5 3 0xFFFE) ∧
    decode 0b100111_00011_00101_1111111111111110#32 = .ok (.lwu 5 3 0xFFFE) ∧
    decode 0b110111_00011_00101_1111111111111110#32 = .ok (.ld 5 3 0xFFFE) ∧
    decode 0b011110_00011_00101_1111111111111110#32 = .ok (.lq 5 3 0xFFFE) ∧
    decode 0b101000_00011_00101_1111111111111110#32 = .ok (.sb 5 3 0xFFFE) ∧
    decode 0b101001_00011_00101_1111111111111110#32 = .ok (.sh 5 3 0xFFFE) := by decide

theorem test_decode_load_store_2 :
    decode 0b101011_00011_00101_1111111111111110#32 = .ok (.sw 5 3 0xFFFE) ∧
    decode 0b111111_00011_00101_1111111111111110#32 = .ok (.sd 5 3 0xFFFE) ∧
    decode 0b011111_00011_00101_1111111111111110#32 = .ok (.sq 5 3 0xFFFE) := by decide

theorem test_decode_unaligned :
    decode 0b100010_00011_00101_1111111111111110#32 = .ok (.lwl 5 3 0xFFFE) ∧
    decode 0b100110_00011_00101_1111111111111110#32 = .ok (.lwr 5 3 0xFFFE) ∧
    decode 0b011010_00011_00101_1111111111111110#32 = .ok (.ldl 5 3 0xFFFE) ∧
    decode 0b011011_00011_00101_1111111111111110#32 = .ok (.ldr 5 3 0xFFFE) ∧
    decode 0b101010_00011_00101_1111111111111110#32 = .ok (.swl 5 3 0xFFFE) ∧
    decode 0b101110_00011_00101_1111111111111110#32 = .ok (.swr 5 3 0xFFFE) ∧
    decode 0b101100_00011_00101_1111111111111110#32 = .ok (.sdl 5 3 0xFFFE) ∧
    decode 0b101101_00011_00101_1111111111111110#32 = .ok (.sdr 5 3 0xFFFE) := by decide

theorem test_decode_alu_1 :
    decode 0b000000_00100_00101_00010_00000_100000#32 = .ok (.add 2 4 5) ∧
    decode 0b000000_00100_00101_00010_00000_100001#32 = .ok (.addu 2 4 5) ∧
    decode 0b000000_00100_00101_00010_00000_100010#32 = .ok (.sub 2 4 5) ∧
    decode 0b000000_00100_00101_00010_00000_100011#32 = .ok (.subu 2 4 5) ∧
    decode 0b001000_00100_00101_1000000000000001#32 = .ok (.addi 5 4 0x8001) ∧
    decode 0b001001_00100_00101_1000000000000001#32 = .ok (.addiu 5 4 0x8001) ∧
    decode 0b000000_00100_00101_00010_00000_101100#32 = .ok (.dadd 2 4 5) ∧
    decode 0b000000_00100_00101_00010_00000_101101#32 = .ok (.daddu 2 4 5) ∧
    decode 0b000000_00100_00101_00010_00000_101110#32 = .ok (.dsub 2 4 5) ∧
    decode 0b000000_00100_00101_00010_00000_101111#32 = .ok (.dsubu 2 4 5) := by decide

theorem test_decode_alu_2 :
    decode 0b011000_00100_00101_1000000000000001#32 = .ok (.daddi 5 4 0x8001) ∧
    decode 0b011001_00100_00101_1000000000000001#32 = .ok (.daddiu 5 4 0x8001) ∧
    decode 0b000000_00100_00101_00010_00000_100100#32 = .ok (.and 2 4 5) ∧
    decode 0b000000_00100_00101_00010_00000_100101#32 = .ok (.or 2 4 5) ∧
    decode 0b000000_00100_00101_00010_00000_100110#32 = .ok (.xor 2 4 5) ∧
    decode 0b000000_00100_00101_00010_00000_100111#32 = .ok (.nor 2 4 5) ∧
    decode 0b001100_00100_00101_1000000000000001#32 = .ok (.andi 5 4 0x8001) ∧
    decode 0b001101_00100_00101_1000000000000001#32 = .ok (.ori 5 4 0x8001) ∧
    decode 0b001110_00100_00101_1000000000000001#32 = .ok (.xori 5 4 0x8001) ∧
    decode 0b001111_00000_00101_1000000000000001#32 = .ok (.lui 5 0x8001) := by decide

theorem test_decode_alu_3 :
    decode 0b000000_00100_00101_00010_00000_101010#32 = .ok (.slt 2 4 5) ∧
    decode 0b000000_00100_00101_00010_00000_101011#32 = .ok (.sltu 2 4 5) ∧
    decode 0b001010_00100_00101_1000000000000001#32 = .ok (.slti 5 4 0x8001) ∧
    decode 0b001011_00100_00101_1000000000000001#32 = .ok (.sltiu 5 4 0x8001) ∧
    decode 0b000000_00000_00101_00010_00011_000000#32 = .ok (.sll 2 5 3) ∧
    decode 0b000000_00000_00101_00010_00011_000010#32 = .ok (.srl 2 5 3) ∧
    decode 0b000000_00000_00101_00010_00011_000011#32 = .ok (.sra 2 5 3) ∧
    decode 0b000000_00100_00101_00010_00000_000100#32 = .ok (.sllv 2 5 4) ∧
    decode 0b000000_00100_00101_00010_00000_000110#32 = .ok (.srlv 2 5 4) ∧
    decode 0b000000_00100_00101_00010_00000_000111#32 = .ok (.srav 2 5 4) := by decide

theorem test_decode_alu_4 :
    decode 0b000000_00000_00101_00010_00011_111000#32 = .ok (.dsll 2 5 3) ∧
    decode 0b000000_00000_00101_00010_00011_111010#32 = .ok (.dsrl 2 5 3) ∧
    decode 0b000000_00000_00101_00010_00011_111011#32 = .ok (.dsra 2 5 3) ∧
    decode 0b000000_00000_00101_00010_00011_111100#32 = .ok (.dsll32 2 5 3) ∧
    decode 0b000000_00000_00101_00010_00011_111110#32 = .ok (.dsrl32 2 5 3) ∧
    decode 0b000000_00000_00101_00010_00011_111111#32 = .ok (.dsra32 2 5 3) ∧
    decode 0b000000_00100_00101_00010_00000_010100#32 = .ok (.dsllv 2 5 4) ∧
    decode 0b000000_00100_00101_00010_00000_010110#32 = .ok (.dsrlv 2 5 4) ∧
    decode 0b000000_00100_00101_00010_00000_010111#32 = .ok (.dsrav 2 5 4) := by decide

theorem test_decode_muldiv_1 :
    decode 0b000000_00100_00101_00010_00000_011000#32 = .ok (.mult 2 4 5) ∧
    decode 0b000000_00100_00101_00010_00000_011001#32 = .ok (.multu 2 4 5) ∧
    decode 0b011100_00100_00101_00010_00000_011000#32 = .ok (.mult1 2 4 5) ∧
    decode 0b011100_00100_00101_00010_00000_011001#32 = .ok (.multu1 2 4 5) ∧
    decode 0b000000_00100_00101_00000_00000_011010#32 = .ok (.div 4 5) ∧
    decode 0b000000_00100_00101_00000_00000_011011#32 = .ok (.divu 4 5) ∧
    decode 0b011100_00100_00101_00000_00000_011010#32 = .ok (.div1 4 5) ∧
    decode 0b011100_00100_00101_00000_00000_011011#32 = .ok (.divu1 4 5) ∧
    decode 0b000000_00000_00000_00010_00000_010000#32 = .ok (.mfhi 2) ∧
    decode 0b000000_00000_00000_00010_00000_010010#32 = .ok (.mflo 2) := by decide

theorem test_decode_muldiv_2 :
    decode 0b000000_00100_00000_00000_00000_010001#32 = .ok (.mthi 4) ∧
    decode 0b000000_00100_00000_00000_00000_010011#32 = .ok (.mtlo 4) ∧
    decode 0b011100_00000_00000_00010_00000_010000#32 = .ok (.mfhi1 2) ∧
    decode 0b011100_00000_00000_00010_00000_010010#32 = .ok (.mflo1 2) ∧
    decode 0b011100_00100_00000_00000_00000_010001#32 = .ok (.mthi1 4) ∧
    decode 0b011100_00100_00000_00000_00000_010011#32 = .ok (.mtlo1 4) := by decide

theorem test_decode_move :
    decode 0b000000_00100_00101_00010_00000_001010#32 = .ok (.movz 2 4 5) ∧
    decode 0b000000_00100_00101_00010_00000_001011#32 = .ok (.movn 2 4 5) := by decide

theorem test_decode_system_1 :
    decode 0b000000_00000_00000_00000_00000_000000#32 = .ok .nop ∧
    decode 0b000000_10101011110011011110_001100#32 = .ok (.syscall 0xABCDE) ∧
    decode 0b000000_10101011110011011110_001101#32 = .ok (.breakpoint 0xABCDE) ∧
    decode 0b010000_00000_00101_01100_00000_000000#32 = .ok (.mfc0 5 12) ∧
    decode 0b010000_00100_00101_01100_00000_000000#32 = .ok (.mtc0 5 12) ∧
    decode 0b010000_10000_00000_00000_00000_011000#32 = .ok .eret ∧
    decode 0b010000_10000_00000_00000_00000_111000#32 = .ok .ei ∧
    decode 0b010000_10000_00000_00000_00000_111001#32 = .ok .di ∧
    decode 0b000000_00000_00000_00000_10000_001111#32 = .ok (.sync 16) ∧
    decode 0b101111_00011_10100_1111111111111110#32 = .ok (.cache 20 3 0xFFFE) := by decide

theorem test_decode_system_2 :
    decode 0b110011_00011_10101_1111111111111110#32 = .ok (.pref 21 3 0xFFFE) ∧
    decode 0b010000_10000_00000_00000_00000_000001#32 = .ok .tlbr ∧
    decode 0b010000_10000_00000_00000_00000_000010#32 = .ok .tlbwi ∧
    decode 0b010000_10000_00000_00000_00000_000110#32 = .ok .tlbwr ∧
    decode 0b010000_10000_00000_00000_00000_001000#32 = .ok .tlbp := by decide

/-- The words of `95_test_vectors.md` 2.8 are decode failures. -/
theorem test_decode_failures :
    [0x00000001#32, 0x00000005#32, 0x00000028#32, 0x00000034#32, 0x0085001C#32, 0x04880000#32, 0x04980000#32,
      0x41000000#32, 0x42000010#32, 0x44000000#32, 0x48000000#32, 0xC4000000#32, 0xE4000000#32, 0xD8000000#32,
      0xF8000000#32, 0x70000000#32, 0x70000004#32, 0x70000008#32, 0x70000028#32, 0x4C000000#32, 0xC0000000#32,
      0xE0000000#32, 0xD0000000#32, 0xEC000000#32].all
      (fun w => !(decode w).toOption.isSome) = true := by decide

/-- The bytes of memory, lowest address first, make the word little-endian (R70). -/
theorem test_decode_bytes : decodeBytes [0x20#8, 0x10#8, 0x85#8, 0x00#8, 0xAB#8] = some (.add 2 4 5, [0xAB#8]) ∧
    decodeBytes [0x20#8, 0x10#8, 0x85#8] = none ∧ decodeTableWord 32 0x00851020 = some (.add 2 4 5) := by decide

/-! ### One step: the helpers -/

/-- Registers given their values. -/
def withRegs (s : State) : List (Reg × QWord) → State
  | [] => s
  | (r, v) :: rest => withRegs (s.setReg r v) rest

/-- Control slots given their values. -/
def withSlots (s : State) : List (Reg × Word) → State
  | [] => s
  | (n, v) :: rest => withSlots (s.setSlot n v) rest

/-- The start of the vectors: `w` in local RAM at `0x80010000`, `pc` there. -/
def start (w : Word) (regs : List (Reg × QWord)) : State :=
  withRegs { State.reset with pc := 0x80010000#32, mem := State.reset.mem.writeLE 0x10000 (w.setWidth 128) 4 } regs

/-- The same with control slots. -/
def startSlots (w : Word) (regs : List (Reg × QWord)) (slots : List (Reg × Word)) : State :=
  withSlots (start w regs) slots

/-- A delay slot: `w` at `0x80010004`, a branch to `0x80020000` pending. -/
def startInSlot (w : Word) : State :=
  { State.reset with
    pc := 0x80010004#32, branchPc := 0x80020000#32, isBranching := true, delaySlot := 1
    mem := State.reset.mem.writeLE 0x10004 (w.setWidth 128) 4 }

/-- One step is taken and the next state passes the check. -/
def sees (s : State) (check : State → Bool) : Bool :=
  match step s with
  | .next t => check t
  | .fault _ => false
  | .refused _ => false

/-- An answer is this refusal. -/
def refusedWith (why : Refusal) : Host.Outcome State Fault Refusal → Bool
  | .next _ => false
  | .fault _ => false
  | .refused r => r == why

/-- One step is refused. -/
def stops (s : State) (why : Refusal) : Bool := refusedWith why (step s)

/-- `pc` and `Count` advance, nothing goes out. -/
def advanced (t : State) : Bool := t.pc == 0x80010004#32 && t.count == 1#32 && t.events == [] && !t.isBranching

/-- A register instruction leaves `v` in `x[2][63:0]` and the upper half alone. -/
def gives (w : Word) (regs : List (Reg × QWord)) (v : DWord) : Bool :=
  sees (start w ((2, 0xAAAAAAAAAAAAAAAA0000000000000000#128) :: regs))
    (fun t => t.low 2 == v && t.high 2 == 0xAAAAAAAAAAAAAAAA#64 && advanced t)

/-- Outcome of a branch at `0x80010000`, with `x[31]` after it: taken, not taken, delay slot skipped. -/
def takes (w : Word) (regs : List (Reg × QWord)) (target : VAddr) (link : DWord) : Bool :=
  sees (start w ((31, 0x1111#128) :: regs))
    (fun t => t.pc == 0x80010004#32 && t.isBranching && t.delaySlot == 1 && t.branchPc == target && t.low 31 == link)
def falls (w : Word) (regs : List (Reg × QWord)) (link : DWord) : Bool :=
  sees (start w ((31, 0x1111#128) :: regs)) (fun t => advanced t && t.low 31 == link)
def skips (w : Word) (regs : List (Reg × QWord)) (link : DWord) : Bool :=
  sees (start w ((31, 0x1111#128) :: regs))
    (fun t => t.pc == 0x80010008#32 && !t.isBranching && t.count == 1#32 && t.low 31 == link)

/-- Sixteen bytes of data at physical `0x20000`. -/
def withData (s : State) : State :=
  { s with mem := s.mem.writeLE 0x20000 0x01020304050607088877665544F382FF#128 16 }

/-- A load from that data, `x[2]` after it. -/
def loads (w : Word) (v : QWord) : Bool :=
  sees (withData (start w [(3, 0xFFFFFFFF00020000#128), (2, 0xAAAAAAAAAAAAAAAABBBBBBBBBBBBBBBB#128)]))
    (fun t => t.reg 2 == v && advanced t)

/-- A store to it, the sixteen bytes after it. -/
def stores (w : Word) (v : QWord) : Bool :=
  sees (withData (start w [(3, 0x20000#128), (2, 0xA1A2A3A4A5A6A7A8B1B2B3B4B5B6B7B8#128)]))
    (fun t => t.mem.readLE 0x20000 16 == v && t.reg 2 == 0xA1A2A3A4A5A6A7A8B1B2B3B4B5B6B7B8#128 && advanced t)

/-- The address error of a load or store there: memory and `x[2]` as they were, no access made. -/
def misaligned (w : Word) (cause : Word) : Bool :=
  sees (withData (start w [(3, 0x20000#128), (2, 0xA1A2A3A4A5A6A7A8B1B2B3B4B5B6B7B8#128)]))
    (fun t => t.pc == 0x80000180#32 && t.cause == cause && t.epc == 0x80010000#32 && t.status == 2#32 &&
      t.mem.readLE 0x20000 16 == 0x01020304050607088877665544F382FF#128 &&
      t.reg 2 == 0xA1A2A3A4A5A6A7A8B1B2B3B4B5B6B7B8#128 && t.events == [])

/-- A left/right load of `x[2]` from the bytes `11 22 .. 88` at `0x1000`. -/
def mergesLoad (w : Word) (old v : DWord) : Bool :=
  let s := start w [(3, 0x1000#128), (2, old.setWidth 128)]
  sees { s with mem := s.mem.writeLE 0x1000 0x8877665544332211#128 8 } (fun t => t.low 2 == v && advanced t)

/-- A left/right store of `x[2]` to them, the eight bytes after it. -/
def mergesStore (w : Word) (value v : DWord) : Bool :=
  let s := start w [(3, 0x1000#128), (2, value.setWidth 128)]
  sees { s with mem := s.mem.writeLE 0x1000 0x8877665544332211#128 8 }
    (fun t => t.mem.readLE 0x1000 8 == v.setWidth 128 && advanced t)

/-- The pairs after a multiply or divide, `(HI, LO, HI1, LO1)`, from pairs of 1, 2, 3, 4. -/
def leaves (w : Word) (a b : QWord) (hi lo hi1 lo1 : DWord) : Bool :=
  sees { start w [(4, a), (5, b)] with hi := 1#64, lo := 2#64, hi1 := 3#64, lo1 := 4#64 }
    (fun t => t.hi == hi && t.lo == lo && t.hi1 == hi1 && t.lo1 == lo1 && advanced t)

/-- `pc`, `Status`, `Cause` and `EPC` after a step. -/
def control (s : State) (pc : VAddr) (status cause epc : Word) : Bool :=
  sees s (fun t => t.pc == pc && t.status == status && t.cause == cause && t.epc == epc && !t.isBranching)

/-! ### Arithmetic, logical, compare, shift (vectors A1 to A45) -/

-- A1
theorem test_add : gives 0x00851020#32 [(4, 0x7FFFFFFF#128), (5, 0x1#128)] 0xFFFFFFFF80000000#64 = true := by decide
-- A2
theorem test_addu : gives 0x00851021#32 [(4, 0x123456787FFFFFFF#128), (5, 0x1#128)] 0xFFFFFFFF80000000#64 = true := by decide
-- A3
theorem test_sub : gives 0x00851022#32 [(4, 0xFFFFFFFF80000000#128), (5, 0x1#128)] 0x7FFFFFFF#64 = true := by decide
-- A4
theorem test_subu : gives 0x00851023#32 [(4, 0x0#128), (5, 0x1#128)] 0xFFFFFFFFFFFFFFFF#64 = true := by decide
-- A5
theorem test_addi : gives 0x2082FFFF#32 [(4, 0xFFFFFFFF80000000#128)] 0x7FFFFFFF#64 = true := by decide
-- A6
theorem test_addiu : gives 0x24827FFF#32 [(4, 0x7FFFFFFF#128)] 0xFFFFFFFF80007FFE#64 = true := by decide
-- A7
theorem test_dadd : gives 0x0085102C#32 [(4, 0x7FFFFFFFFFFFFFFF#128), (5, 0x1#128)] 0x8000000000000000#64 = true := by decide
-- A8
theorem test_daddu : gives 0x0085102D#32 [(4, 0xFFFFFFFFFFFFFFFF#128), (5, 0x1#128)] 0x0#64 = true := by decide
-- A9
theorem test_dsub : gives 0x0085102E#32 [(4, 0x8000000000000000#128), (5, 0x1#128)] 0x7FFFFFFFFFFFFFFF#64 = true := by decide
-- A10
theorem test_dsubu : gives 0x0085102F#32 [(4, 0x0#128), (5, 0x1#128)] 0xFFFFFFFFFFFFFFFF#64 = true := by decide
-- A11
theorem test_daddi : gives 0x6082FFFF#32 [(4, 0x8000000000000000#128)] 0x7FFFFFFFFFFFFFFF#64 = true := by decide
-- A12
theorem test_daddiu : gives 0x64828000#32 [(4, 0x100000000#128)] 0xFFFF8000#64 = true := by decide
-- A13
theorem test_and : gives 0x00851024#32 [(4, 0xFF00FF00FF00FF00#128), (5, 0xFF00FF00FF00FF0#128)] 0xF000F000F000F00#64 = true := by decide
-- A14
theorem test_or : gives 0x00851025#32 [(4, 0xFF00FF00FF00FF00#128), (5, 0xFF00FF00FF00FF0#128)] 0xFFF0FFF0FFF0FFF0#64 = true := by decide
-- A15
theorem test_xor : gives 0x00851026#32 [(4, 0xFF00FF00FF00FF00#128), (5, 0xFF00FF00FF00FF0#128)] 0xF0F0F0F0F0F0F0F0#64 = true := by decide
-- A16
theorem test_nor : gives 0x00851027#32 [(4, 0xFF00FF00FF00FF00#128), (5, 0xFF00FF00FF00FF0#128)] 0xF000F000F000F#64 = true := by decide
-- A17
theorem test_andi : gives 0x30828001#32 [(4, 0xFFFFFFFFFFFFFFFF#128)] 0x8001#64 = true := by decide
-- A18
theorem test_ori : gives 0x34828001#32 [(4, 0xFFFF000000000000#128)] 0xFFFF000000008001#64 = true := by decide
-- A19
theorem test_xori : gives 0x3882FFFF#32 [(4, 0xFFFFFFFFFFFFFFFF#128)] 0xFFFFFFFFFFFF0000#64 = true := by decide
-- A20
theorem test_lui : gives 0x3C028000#32 [] 0xFFFFFFFF80000000#64 = true := by decide
-- A22, A23
theorem test_slt : gives 0x0085102A#32 [(4, 0xFFFFFFFFFFFFFFFF#128), (5, 0x0#128)] 0x1#64 = true ∧
    gives 0x0085102A#32 [(4, 0x100000000#128), (5, 0xFFFFFFFF#128)] 0x0#64 = true := by decide
-- A24
theorem test_sltu : gives 0x0085102B#32 [(4, 0xFFFFFFFFFFFFFFFF#128), (5, 0x0#128)] 0x0#64 = true := by decide
-- A25
theorem test_slti : gives 0x2882FFFF#32 [(4, 0xFFFFFFFFFFFFFFFE#128)] 0x1#64 = true := by decide
-- A26, A27
theorem test_sltiu : gives 0x2C82FFFF#32 [(4, 0xFFFFFFFFFFFFFFFE#128)] 0x1#64 = true ∧
    gives 0x2C82FFFF#32 [(4, 0xFFFFFFFFFFFFFFFF#128)] 0x0#64 = true := by decide
-- A28, A29
theorem test_sll : gives 0x000517C0#32 [(5, 0x1#128)] 0xFFFFFFFF80000000#64 = true ∧
    gives 0x00051000#32 [(5, 0x1234567880000000#128)] 0xFFFFFFFF80000000#64 = true := by decide
-- A30, A31
theorem test_srl : gives 0x00051042#32 [(5, 0xFFFFFFFF80000000#128)] 0x40000000#64 = true ∧
    gives 0x00051002#32 [(5, 0x80000000#128)] 0xFFFFFFFF80000000#64 = true := by decide
-- A32
theorem test_sra : gives 0x00051103#32 [(5, 0xFFFFFFFF80000000#128)] 0xFFFFFFFFF8000000#64 = true := by decide
-- A33
theorem test_sllv : gives 0x00851004#32 [(5, 0x1#128), (4, 0x21#128)] 0x2#64 = true := by decide
-- A34
theorem test_srlv : gives 0x00851006#32 [(5, 0xFFFFFFFF80000000#128), (4, 0x3F#128)] 0x1#64 = true := by decide
-- A35
theorem test_srav : gives 0x00851007#32 [(5, 0xFFFFFFFF80000000#128), (4, 0x3F#128)] 0xFFFFFFFFFFFFFFFF#64 = true := by decide
-- A36
theorem test_dsll : gives 0x000517F8#32 [(5, 0x3#128)] 0x180000000#64 = true := by decide
-- A37
theorem test_dsrl : gives 0x0005107A#32 [(5, 0x8000000000000000#128)] 0x4000000000000000#64 = true := by decide
-- A38
theorem test_dsra : gives 0x0005107B#32 [(5, 0x8000000000000000#128)] 0xC000000000000000#64 = true := by decide
-- A39
theorem test_dsll32 : gives 0x0005103C#32 [(5, 0x1#128)] 0x100000000#64 = true := by decide
-- A40
theorem test_dsrl32 : gives 0x000517FE#32 [(5, 0x8000000000000000#128)] 0x1#64 = true := by decide
-- A41
theorem test_dsra32 : gives 0x000517FF#32 [(5, 0x8000000000000000#128)] 0xFFFFFFFFFFFFFFFF#64 = true := by decide
-- A42
theorem test_dsllv : gives 0x00851014#32 [(5, 0x1#128), (4, 0x7F#128)] 0x8000000000000000#64 = true := by decide
-- A43
theorem test_dsrlv : gives 0x00851016#32 [(5, 0x8000000000000000#128), (4, 0x40#128)] 0x8000000000000000#64 = true := by decide
-- A44
theorem test_dsrav : gives 0x00851017#32 [(5, 0x8000000000000000#128), (4, 0x3C#128)] 0xFFFFFFFFFFFFFFF8#64 = true := by decide
-- A45: a write to `x[0]` is discarded
theorem test_write_zero : sees (start 0x00850021#32 [(4, 1#128), (5, 2#128)])
    (fun t => t.reg 0 == 0#128 && t.gpr == (start 0x00850021#32 [(4, 1#128), (5, 2#128)]).gpr && advanced t) = true := by
  decide

/-! ### Jumps and branches (vectors B1 to B33) -/

-- B1, B2
theorem test_beq : falls 0x10850004#32 [(4, 0x100000000#128), (5, 0x0#128)] 0x1111#64 = true ∧
    takes 0x10850004#32 [(4, 0x7#128), (5, 0x7#128)] 0x80010014#32 0x1111#64 = true := by decide
-- B3, B4
theorem test_bne : takes 0x1485FFFF#32 [(4, 0x100000000#128), (5, 0x0#128)] 0x80010000#32 0x1111#64 = true ∧
    falls 0x1485FFFF#32 [(4, 0x7#128), (5, 0x7#128)] 0x1111#64 = true := by decide
-- B5, B6, B7
theorem test_blez : takes 0x18800004#32 [(4, 0x0#128)] 0x80010014#32 0x1111#64 = true ∧
    falls 0x18800004#32 [(4, 0x1#128)] 0x1111#64 = true ∧
    takes 0x18800004#32 [(4, 0xFFFFFFFFFFFFFFFF#128)] 0x80010014#32 0x1111#64 = true := by decide
-- B8, B9
theorem test_bgtz : falls 0x1C800004#32 [(4, 0x0#128)] 0x1111#64 = true ∧
    takes 0x1C800004#32 [(4, 0x100000000#128)] 0x80010014#32 0x1111#64 = true := by decide
-- B10, B11
theorem test_bltz : falls 0x04800004#32 [(4, 0x80000000#128)] 0x1111#64 = true ∧
    takes 0x04800004#32 [(4, 0xFFFFFFFFFFFFFFFF#128)] 0x80010014#32 0x1111#64 = true := by decide
-- B12, B13
theorem test_bgez : takes 0x04810004#32 [(4, 0x0#128)] 0x80010014#32 0x1111#64 = true ∧
    falls 0x04810004#32 [(4, 0xFFFFFFFFFFFFFFFF#128)] 0x1111#64 = true := by decide
-- B14, B15
theorem test_beql : takes 0x50850004#32 [(4, 0x1#128), (5, 0x1#128)] 0x80010014#32 0x1111#64 = true ∧
    skips 0x50850004#32 [(4, 0x1#128), (5, 0x2#128)] 0x1111#64 = true := by decide
-- B16, B17
theorem test_bnel : skips 0x54850004#32 [(4, 0x1#128), (5, 0x1#128)] 0x1111#64 = true ∧
    takes 0x54850004#32 [(4, 0x1#128), (5, 0x2#128)] 0x80010014#32 0x1111#64 = true := by decide
-- B18
theorem test_blezl : skips 0x58800004#32 [(4, 0x1#128)] 0x1111#64 = true := by decide
-- B19
theorem test_bgtzl : skips 0x5C800004#32 [(4, 0x0#128)] 0x1111#64 = true := by decide
-- B20
theorem test_bltzl : skips 0x04820004#32 [(4, 0x0#128)] 0x1111#64 = true := by decide
-- B21
theorem test_bgezl : skips 0x04830004#32 [(4, 0xFFFFFFFFFFFFFFFF#128)] 0x1111#64 = true := by decide
-- B22, B23
theorem test_bltzal : takes 0x04900004#32 [(4, 0xFFFFFFFFFFFFFFFF#128)] 0x80010014#32 0x80010008#64 = true ∧
    falls 0x04900004#32 [(4, 0x0#128)] 0x80010008#64 = true := by decide
-- B24, B25
theorem test_bgezal : takes 0x04910004#32 [(4, 0x0#128)] 0x80010014#32 0x80010008#64 = true ∧
    falls 0x04910004#32 [(4, 0xFFFFFFFFFFFFFFFF#128)] 0x80010008#64 = true := by decide
-- B26
theorem test_bltzall : skips 0x04920004#32 [(4, 0x0#128)] 0x80010008#64 = true := by decide
-- B27, B28
theorem test_bgezall : skips 0x04930004#32 [(4, 0xFFFFFFFFFFFFFFFF#128)] 0x80010008#64 = true ∧
    takes 0x04930004#32 [(4, 0x0#128)] 0x80010014#32 0x80010008#64 = true := by decide
-- B29
theorem test_j : takes 0x0BFFFFFF#32 [] 0x8FFFFFFC#32 0x1111#64 = true := by decide
-- B30
theorem test_jal : takes 0x0C000010#32 [] 0x80000040#32 0x80010008#64 = true := by decide
-- B31
theorem test_jr : takes 0x00800008#32 [(4, 0xFFFFFFFF00001000#128)] 0x00001000#32 0x1111#64 = true := by decide
-- B32, B33
theorem test_jalr : takes 0x00802809#32 [(4, 0x80020000#128)] 0x80020000#32 0x1111#64 = true ∧
    takes 0x00802009#32 [(4, 0x80020000#128)] 0x80020000#32 0x1111#64 = true := by decide
-- B32, B33: the link of `JALR`; the target is read first
theorem test_jalr_link :
    sees (start 0x00802809#32 [(4, 0x80020000#128)]) (fun t => t.low 5 == 0x80010008#64) = true ∧
    sees (start 0x00802009#32 [(4, 0x80020000#128)]) (fun t => t.low 4 == 0x80010008#64) = true := by decide
-- 2.9: control transfers in a delay slot, and the one that completes
theorem test_branch_in_slot : stops (startInSlot 0x10000004#32) .controlTransferInDelaySlot = true ∧
    stops (startInSlot 0x54000004#32) .controlTransferInDelaySlot = true ∧
    stops (startInSlot 0x0C000010#32) .controlTransferInDelaySlot = true ∧
    stops (startInSlot 0x42000018#32) .controlTransferInDelaySlot = true ∧
    sees (startInSlot 0x14000004#32) (fun t => t.pc == 0x80020000#32 && !t.isBranching && t.delaySlot == 0) = true := by
  decide

/-! ### Loads and stores (vectors L1 to M10) -/

-- L1, L2
theorem test_lb : loads 0x80620000#32 0xAAAAAAAAAAAAAAAAFFFFFFFFFFFFFFFF#128 = true ∧
    loads 0x80620003#32 0xAAAAAAAAAAAAAAAA0000000000000044#128 = true := by decide
-- L3
theorem test_lbu : loads 0x90620000#32 0xAAAAAAAAAAAAAAAA00000000000000FF#128 = true := by decide
-- L4, L5, L7
theorem test_lh : loads 0x84620000#32 0xAAAAAAAAAAAAAAAAFFFFFFFFFFFF82FF#128 = true ∧
    loads 0x84620002#32 0xAAAAAAAAAAAAAAAA00000000000044F3#128 = true ∧
    misaligned 0x84620001#32 0x10#32 = true := by decide
-- L6, L8
theorem test_lhu : loads 0x94620000#32 0xAAAAAAAAAAAAAAAA00000000000082FF#128 = true ∧
    misaligned 0x94620003#32 0x10#32 = true := by decide
-- L9, L10, L12
theorem test_lw : loads 0x8C620000#32 0xAAAAAAAAAAAAAAAA0000000044F382FF#128 = true ∧
    loads 0x8C620004#32 0xAAAAAAAAAAAAAAAAFFFFFFFF88776655#128 = true ∧
    misaligned 0x8C620002#32 0x10#32 = true := by decide
-- L11, L13
theorem test_lwu : loads 0x9C620004#32 0xAAAAAAAAAAAAAAAA0000000088776655#128 = true ∧
    misaligned 0x9C620001#32 0x10#32 = true := by decide
-- L14, L15
theorem test_ld : loads 0xDC620000#32 0xAAAAAAAAAAAAAAAA8877665544F382FF#128 = true ∧
    misaligned 0xDC620004#32 0x10#32 = true := by decide
-- L16, L17
theorem test_lq : loads 0x78620000#32 0x01020304050607088877665544F382FF#128 = true ∧
    misaligned 0x78620008#32 0x10#32 = true := by decide
-- M1
theorem test_sb : stores 0xA0620001#32 0x01020304050607088877665544F3B8FF#128 = true := by decide
-- M2, M3
theorem test_sh : stores 0xA4620002#32 0x010203040506070888776655B7B882FF#128 = true ∧
    misaligned 0xA4620001#32 0x14#32 = true := by decide
-- M4, M5
theorem test_sw : stores 0xAC620004#32 0x0102030405060708B5B6B7B844F382FF#128 = true ∧
    misaligned 0xAC620006#32 0x14#32 = true := by decide
-- M6, M7
theorem test_sd : stores 0xFC620008#32 0xB1B2B3B4B5B6B7B88877665544F382FF#128 = true ∧
    misaligned 0xFC620004#32 0x14#32 = true := by decide
-- M8, M9
theorem test_sq : stores 0x7C620000#32 0xA1A2A3A4A5A6A7A8B1B2B3B4B5B6B7B8#128 = true ∧
    misaligned 0x7C620008#32 0x14#32 = true := by decide
-- L19, M10
theorem test_load_zero : sees (withData (start 0x8C600000#32 [(3, 0x20000#128)]))
    (fun t => t.reg 0 == 0#128 && t.gpr[0] == 0#128 && advanced t) = true := by decide
theorem test_all_ones_word : control (start 0xFFFFFFFF#32 []) 0x80000180#32 2#32 0x14#32 0x80010000#32 = true := by decide

/-! ### Routing (vectors T1 to T9 and the table of `Route`) -/

theorem test_route_segments :
    [0x00001000#32, 0x80001000#32, 0xA0001000#32, 0x20001000#32].all (fun a => route a == .array .localRam 0x1000) = true ∧
    [0xBFC00000#32, 0x9FC00000#32, 0x1FC00000#32].all (fun a => route a == .array .bootRom 0) = true ∧
    route 0xFFFFFFFC#32 = .array .bootRom 0x3FFFFC ∧ route 0x1C000000#32 = .array .companionRam 0 ∧
    route 0xBC1FFFFC#32 = .array .companionRam 0x1FFFFC := by decide
theorem test_route_windows :
    route 0x70000010#32 = .array .scratchpad 0x10 ∧ route 0x70003FFF#32 = .array .scratchpad 0x3FFF ∧
    route 0x70004000#32 = .busError 0x10004000#29 ∧ route 0x30100000#32 = .array .localRam 0x00100000 ∧
    route 0x31FFFFFC#32 = .array .localRam 0x01FFFFFC ∧ route 0x30000000#32 = .peripheral .timers 0x10000000#29 ∧
    route 0x02000000#32 = .busError 0x02000000#29 ∧ route 0x1F000000#32 = .busError 0x1F000000#29 := by decide
theorem test_route_peripherals :
    route 0x1000F000#32 = .peripheral .intcStatus 0x1000F000#29 ∧
    route 0xB000F010#32 = .peripheral .intcMask 0x1000F010#29 ∧
    route 0x12001000#32 = .peripheral .gsPrivileged 0x12001000#29 ∧
    route 0x10000000#32 = .peripheral .timers 0x10000000#29 := by decide
-- T1, T3, T5
theorem test_store_arrays :
    sees (start 0xAC620000#32 [(3, 0x70000010#128), (2, 0xCAFEBABE#128)])
      (fun t => t.mem.readLE 0x70000010 4 == 0xCAFEBABE#128 && t.mem.read 0x10 == 0#8) = true ∧
    sees (start 0xAC620000#32 [(3, 0x30100000#128), (2, 0xCAFEBABE#128)])
      (fun t => t.mem.readLE 0x00100000 4 == 0xCAFEBABE#128) = true ∧
    sees (start 0xAC620000#32 [(3, 0xFFFFFFFFBC000000#128), (2, 0x11#128)])
      (fun t => t.mem.readLE 0x1C000000 4 == 0x11#128) = true := by decide
-- T6 to T9
theorem test_reports :
    sees (start 0xAC620000#32 [(3, 0xFFFFFFFFBFC00000#128), (2, 1#128)])
      (fun t => t.events == [.romWrite 0x1FC00000#29 .word] && t.mem.readLE 0x1FC00000 4 == 0#128) = true ∧
    sees (start 0xAC620000#32 [(3, 0x14000000#128), (2, 1#128)])
      (fun t => t.events == [.busError 0x14000000#29 .word .store] && t.cause == 0#32) = true ∧
    sees (start 0x8C620000#32 [(3, 0x14000000#128), (2, 0x55#128)])
      (fun t => t.events == [.busError 0x14000000#29 .word .load] && t.reg 2 == 0#128) = true ∧
    sees (start 0x80620000#32 [(3, 0x14000000#128), (2, 0x55#128)])
      (fun t => t.events == [.busError 0x14000000#29 .byte .load] && t.reg 2 == 0#128) = true := by decide
-- S7: exactly one `write32` of the interrupt controller, no byte array changes
theorem test_peripheral_store :
    sees (start 0xAC620000#32 [(3, 0x1000F000#128), (2, 4#128)])
      (fun t => t.events == [.peripheralWrite .intcStatus 0x1000F000#29 .word 4#64] &&
        t.mem == (start 0xAC620000#32 []).mem) = true := by decide
-- R52: one read of the interrupt controller, whatever it answers; the step goes on
theorem test_peripheral_load :
    sees (start 0x8C620000#32 [(3, 0x1000F000#128)])
      (fun t => t.pc == 0x80010004#32 && t.events.length == 1) = true := by decide
-- R53: 16 bytes to a peripheral are two 64-bit writes, the low one first
theorem test_peripheral_quad :
    sees (start 0x7C620000#32 [(3, 0x10007010#128), (2, 0x00000000000000020000000000000001#128)])
      (fun t => t.events == [.peripheralWrite .ipuFifo 0x10007018#29 .double 2#64,
        .peripheralWrite .ipuFifo 0x10007010#29 .double 1#64]) = true := by decide

/-! ### Left/right loads and stores (the tables of 2.3, every offset) -/

theorem test_lwl :
    [(0x88620000#32, 0x0000000011BBCCDD#64), (0x88620001#32, 0x000000002211CCDD#64), (0x88620002#32, 0x00000000332211DD#64),
      (0x88620003#32, 0x0000000044332211#64), (0x88620004#32, 0x0000000055BBCCDD#64)].all
      (fun p => mergesLoad p.1 0x00000000AABBCCDD#64 p.2) = true := by decide
theorem test_lwr :
    [(0x98620000#32, 0x0000000044332211#64), (0x98620001#32, 0xFFFFFFFFAA443322#64), (0x98620002#32, 0xFFFFFFFFAABB4433#64),
      (0x98620003#32, 0xFFFFFFFFAABBCC44#64), (0x98620004#32, 0xFFFFFFFF88776655#64)].all
      (fun p => mergesLoad p.1 0x00000000AABBCCDD#64 p.2) = true := by decide
theorem test_ldl :
    [(0x68620000#32, 0x11A2A3A4A5A6A7A8#64), (0x68620001#32, 0x2211A3A4A5A6A7A8#64), (0x68620002#32, 0x332211A4A5A6A7A8#64),
      (0x68620003#32, 0x44332211A5A6A7A8#64), (0x68620004#32, 0x5544332211A6A7A8#64), (0x68620005#32, 0x665544332211A7A8#64),
      (0x68620006#32, 0x77665544332211A8#64), (0x68620007#32, 0x8877665544332211#64)].all
      (fun p => mergesLoad p.1 0xA1A2A3A4A5A6A7A8#64 p.2) = true := by decide
theorem test_ldr :
    [(0x6C620000#32, 0x8877665544332211#64), (0x6C620001#32, 0xA188776655443322#64), (0x6C620002#32, 0xA1A2887766554433#64),
      (0x6C620003#32, 0xA1A2A38877665544#64), (0x6C620004#32, 0xA1A2A3A488776655#64), (0x6C620005#32, 0xA1A2A3A4A5887766#64),
      (0x6C620006#32, 0xA1A2A3A4A5A68877#64), (0x6C620007#32, 0xA1A2A3A4A5A6A788#64)].all
      (fun p => mergesLoad p.1 0xA1A2A3A4A5A6A7A8#64 p.2) = true := by decide
theorem test_swl :
    [(0xA8620000#32, 0x88776655443322AA#64), (0xA8620001#32, 0x887766554433AABB#64), (0xA8620002#32, 0x8877665544AABBCC#64),
      (0xA8620003#32, 0x88776655AABBCCDD#64)].all
      (fun p => mergesStore p.1 0x00000000AABBCCDD#64 p.2) = true := by decide
theorem test_swr :
    [(0xB8620000#32, 0x88776655AABBCCDD#64), (0xB8620001#32, 0x88776655BBCCDD11#64), (0xB8620002#32, 0x88776655CCDD2211#64),
      (0xB8620003#32, 0x88776655DD332211#64)].all
      (fun p => mergesStore p.1 0x00000000AABBCCDD#64 p.2) = true := by decide
theorem test_sdl :
    [(0xB0620000#32, 0x88776655443322A1#64), (0xB0620001#32, 0x887766554433A1A2#64), (0xB0620002#32, 0x8877665544A1A2A3#64),
      (0xB0620003#32, 0x88776655A1A2A3A4#64), (0xB0620004#32, 0x887766A1A2A3A4A5#64), (0xB0620005#32, 0x8877A1A2A3A4A5A6#64),
      (0xB0620006#32, 0x88A1A2A3A4A5A6A7#64), (0xB0620007#32, 0xA1A2A3A4A5A6A7A8#64)].all
      (fun p => mergesStore p.1 0xA1A2A3A4A5A6A7A8#64 p.2) = true := by decide
theorem test_sdr :
    [(0xB4620000#32, 0xA1A2A3A4A5A6A7A8#64), (0xB4620001#32, 0xA2A3A4A5A6A7A811#64), (0xB4620002#32, 0xA3A4A5A6A7A82211#64),
      (0xB4620003#32, 0xA4A5A6A7A8332211#64), (0xB4620004#32, 0xA5A6A7A844332211#64), (0xB4620005#32, 0xA6A7A85544332211#64),
      (0xB4620006#32, 0xA7A8665544332211#64), (0xB4620007#32, 0xA877665544332211#64)].all
      (fun p => mergesStore p.1 0xA1A2A3A4A5A6A7A8#64 p.2) = true := by decide

/-! ### Multiply, divide, moves (vectors D1 to D24, V1 to V4) -/

-- D1, D2
theorem test_mult : leaves 0x00850018#32 0x80000000#128 0x80000000#128 0x40000000#64 0#64 3#64 4#64 = true ∧
    leaves 0x00850018#32 0xFFFFFFFF#128 0xFFFFFFFF#128 0#64 1#64 3#64 4#64 = true := by decide
-- D3
theorem test_mult_rd : sees (start 0x00863818#32 [(4, 7#128), (6, 3#128)])
    (fun t => t.reg 7 == 0x15#128 && t.lo == 0x15#64 && t.hi == 0#64) = true := by decide
-- D4, D5
theorem test_multu : leaves 0x00850019#32 0xFFFFFFFF#128 0xFFFFFFFF#128 0xFFFFFFFFFFFFFFFE#64 1#64 3#64 4#64 = true ∧
    leaves 0x00851019#32 0x80000000#128 2#128 1#64 0#64 3#64 4#64 = true := by decide
-- D6, D7
theorem test_div : leaves 0x0085001A#32 0xFFFFFFF9#128 2#128 0xFFFFFFFFFFFFFFFF#64 0xFFFFFFFFFFFFFFFD#64 3#64 4#64 = true ∧
    leaves 0x0085001A#32 7#128 0xFFFFFFFE#128 1#64 0xFFFFFFFFFFFFFFFD#64 3#64 4#64 = true := by decide
-- D11
theorem test_divu : leaves 0x0085001B#32 0xFFFFFFF9#128 2#128 1#64 0x7FFFFFFC#64 3#64 4#64 = true := by decide
-- D13
theorem test_mult1 : leaves 0x70851018#32 6#128 7#128 1#64 2#64 0#64 0x2A#64 = true ∧
    gives 0x70851018#32 [(4, 6#128), (5, 7#128)] 0x2A#64 = true := by decide
-- D14
theorem test_multu1 : leaves 0x70850019#32 0xFFFFFFFF#128 2#128 1#64 2#64 1#64 0xFFFFFFFFFFFFFFFE#64 = true := by decide
-- D15
theorem test_div1 : leaves 0x7085001A#32 100#128 7#128 1#64 2#64 2#64 0xE#64 = true := by decide
-- derived from R245 and R249
theorem test_divu1 : leaves 0x7085001B#32 0xFFFFFFF9#128 2#128 1#64 2#64 1#64 0x7FFFFFFC#64 = true := by decide
-- D8, D9, D10, D12, D16: the default of `DIV0`, which the machine leaves open, as `(LO, HI)`
theorem test_div0_default :
    Config.div0Default .signed 7#32 0#32 = (0xFFFFFFFFFFFFFFFF#64, 7#64) ∧
    Config.div0Default .signed 0xFFFFFFF9#32 0#32 = (1#64, 0xFFFFFFFFFFFFFFF9#64) ∧
    Config.div0Default .signed 0x80000000#32 0xFFFFFFFF#32 = (0xFFFFFFFF80000000#64, 0#64) ∧
    Config.div0Default .unsigned 0x80000000#32 0#32 = (0xFFFFFFFFFFFFFFFF#64, 0xFFFFFFFF80000000#64) ∧
    Config.div0Default .unsigned 100#32 0#32 = (0xFFFFFFFFFFFFFFFF#64, 0x64#64) := by decide
-- R241: a division by zero completes
theorem test_div_by_zero : sees (start 0x0085001A#32 [(4, 7#128)]) advanced = true ∧
    sees (start 0x7085001B#32 [(4, 7#128)]) advanced = true := by decide
-- D17, D18, D21, D22
theorem test_mfhi_mflo :
    [(0x00001010#32, 0x8000000000000001#64), (0x00001012#32, 2#64), (0x70001010#32, 3#64), (0x70001012#32, 4#64)].all
      (fun p => sees { start p.1 [] with hi := 0x8000000000000001#64, lo := 2#64, hi1 := 3#64, lo1 := 4#64 }
        (fun t => t.reg 2 == p.2.setWidth 128)) = true := by decide
-- D19, D20, D23, D24
theorem test_mthi_mtlo :
    leaves 0x00800011#32 0x123456789ABCDEF0#128 0#128 0x123456789ABCDEF0#64 2#64 3#64 4#64 = true ∧
    leaves 0x00800013#32 0x123456789ABCDEF0#128 0#128 1#64 0x123456789ABCDEF0#64 3#64 4#64 = true ∧
    leaves 0x70800011#32 0x123456789ABCDEF0#128 0#128 1#64 2#64 0x123456789ABCDEF0#64 4#64 = true ∧
    leaves 0x70800013#32 0x123456789ABCDEF0#128 0#128 1#64 2#64 3#64 0x123456789ABCDEF0#64 = true := by decide
-- V1, V2
theorem test_movz : sees (start 0x0085100A#32 [(2, 0x11#128), (4, 0x22#128)]) (fun t => t.reg 2 == 0x22#128) = true ∧
    sees (start 0x0085100A#32 [(2, 0x11#128), (4, 0x22#128), (5, 0x100000000#128)]) (fun t => t.reg 2 == 0x11#128) = true := by
  decide
-- V3, V4
theorem test_movn : sees (start 0x0085100B#32 [(2, 0x11#128), (4, 0x22#128), (5, 0x100000000#128)])
      (fun t => t.reg 2 == 0x22#128) = true ∧
    sees (start 0x0085100B#32 [(2, 0x11#128), (4, 0x22#128)]) (fun t => t.reg 2 == 0x11#128) = true := by decide

/-! ### System, exceptions, interrupts (vectors K1 to K34, Q1 to Q13) -/

-- K1, K2, K3, K5
theorem test_syscall :
    control (start 0x0000000C#32 []) 0x80000180#32 2#32 0x20#32 0x80010000#32 = true ∧
    control (startSlots 0x0000000C#32 [] [(12, 0x00400000#32)]) 0xBFC00380#32 0x00400002#32 0x20#32 0x80010000#32 = true ∧
    control (startSlots 0x0000000C#32 [] [(12, 2#32), (14, 0x1234#32), (13, 0x80000000#32)])
      0x80000180#32 2#32 0x80000020#32 0x1234#32 = true ∧
    control (start 0x03FFFFCC#32 []) 0x80000180#32 2#32 0x20#32 0x80010000#32 = true := by decide
-- K6
theorem test_syscall_in_slot :
    control (startInSlot 0x0000000C#32) 0x80000180#32 2#32 0x80000020#32 0x80010000#32 = true := by decide
-- K7, K8
theorem test_break : control (start 0x0000000D#32 []) 0x80000180#32 2#32 0x24#32 0x80010000#32 = true ∧
    control (withSlots (startInSlot 0x0000000D#32) [(13, 0x8400#32)]) 0x80000180#32 2#32 0x80008424#32 0x80010000#32 = true := by
  decide
-- K9, K10, K11, K13
theorem test_mfc0 :
    sees (startSlots 0x40026000#32 [] [(12, 0x80000001#32)]) (fun t => t.reg 2 == 0xFFFFFFFF80000001#128) = true ∧
    sees (start 0x40027800#32 []) (fun t => t.reg 2 == 0x2E20#128) = true ∧
    sees (startSlots 0x40024800#32 [] [(9, 5#32)]) (fun t => t.reg 2 == 5#128 && t.count == 6#32) = true ∧
    sees (startSlots 0x40006000#32 [] [(12, 1#32)]) (fun t => t.reg 0 == 0#128) = true := by decide
-- K14, K15, K16
theorem test_mtc0 :
    sees (start 0x40826000#32 [(2, 0xFFFFFFFF00410001#128)]) (fun t => t.status == 0x00410001#32) = true ∧
    sees (start 0x40824800#32 [(2, 0x100#128)]) (fun t => t.count == 0x101#32) = true ∧
    sees (start 0x40827800#32 [(2, 0xDEADBEEF#128)]) (fun t => t.slot 15 == 0xDEADBEEF#32) = true := by decide
-- K17, K18
theorem test_mtc0_admits :
    control (startSlots 0x40826800#32 [(2, 0x8000#128)] [(12, 0x00018001#32)])
      0x80000200#32 0x00018003#32 0x8000#32 0x80010004#32 = true ∧
    control (startSlots 0x40826000#32 [(2, 0x00010401#128)] [(13, 0x400#32)])
      0x80000200#32 0x00010403#32 0x400#32 0x80010004#32 = true := by decide
-- K19, K20, K21
theorem test_eret :
    control (startSlots 0x42000018#32 [] [(12, 3#32), (14, 0x00100004#32)]) 0x00100004#32 1#32 0#32 0x00100004#32 = true ∧
    control (startSlots 0x42000018#32 [] [(12, 7#32), (14, 0x00100004#32), (30, 0x00200008#32)])
      0x00200008#32 3#32 0#32 0x00100004#32 = true ∧
    control (startSlots 0x42000018#32 [] [(12, 1#32), (14, 0x00100004#32)]) 0x00100004#32 1#32 0#32 0x00100004#32 = true := by
  decide
-- K22
theorem test_eret_admits : control (startSlots 0x42000018#32 [] [(12, 0x00010403#32), (13, 0x400#32), (14, 0x00100004#32)])
    0x80000200#32 0x00010403#32 0x400#32 0x00100004#32 = true := by decide
-- K23 to K26
theorem test_ei : [(0x00000001#32, 0x00010001#32), (0x00000011#32, 0x00000011#32), (0x00020011#32, 0x00030011#32),
      (0x00000013#32, 0x00010013#32)].all
      (fun p => sees (startSlots 0x42000038#32 [] [(12, p.1)]) (fun t => t.status == p.2 && advanced t)) = true := by decide
-- K27, K28
theorem test_di : [(0x00010001#32, 0x00000001#32), (0x00010011#32, 0x00010011#32)].all
      (fun p => sees (startSlots 0x42000039#32 [] [(12, p.1)]) (fun t => t.status == p.2 && advanced t)) = true := by decide
-- K29 to K34: only `pc` and `Count` advance
theorem test_no_effect : [0x00000000#32, 0x00000040#32, 0x0000000F#32, 0x0000040F#32, 0xBC740001#32, 0xCC000000#32,
      0x42000001#32, 0x42000002#32, 0x42000006#32, 0x42000008#32].all
      (fun w => sees (start w [(3, 0x12345#128)]) (fun t => advanced t && t.gpr == (start w [(3, 0x12345#128)]).gpr &&
        t.mem == (start w []).mem && t.cop0 == (startSlots w [] [(9, 1#32)]).cop0)) = true := by decide

/-- A line asserted before the step. -/
def requested (line : Nat) (s : State) : State :=
  match strobe (.requestInterrupt line) s with
  | .next t => t
  | .fault _ => s
  | .refused _ => s

-- Q1, Q2, Q3, Q9
theorem test_interrupt_taken :
    control (requested 0 (startSlots 0#32 [] [(12, 0x00010401#32)])) 0x80000200#32 0x00010403#32 0x400#32 0x80010004#32 = true ∧
    control (requested 1 (startSlots 0#32 [] [(12, 0x00010801#32)])) 0x80000200#32 0x00010803#32 0x800#32 0x80010004#32 = true ∧
    control (requested 2 (startSlots 0#32 [] [(12, 0x00018001#32)])) 0x80000200#32 0x00018003#32 0x8000#32 0x80010004#32 = true ∧
    control (requested 0 (startSlots 0#32 [] [(12, 0x00410401#32)])) 0xBFC00400#32 0x00410403#32 0x400#32 0x80010004#32 = true := by
  decide
-- Q4 to Q8
theorem test_interrupt_waits : [0x00010801#32, 0x00010400#32, 0x00000401#32, 0x00010403#32, 0x00010405#32].all
      (fun w => control (requested 0 (startSlots 0#32 [] [(12, w)])) 0x80010004#32 w 0x400#32 0#32) = true := by decide
-- Q10, Q11
theorem test_interrupt_at_branch :
    control (requested 0 (startSlots 0x10000004#32 [] [(12, 0x00010401#32)]))
      0x80000200#32 0x00010403#32 0x80000400#32 0x80010000#32 = true ∧
    control (requested 0 (withSlots (startInSlot 0#32) [(12, 0x00010401#32)]))
      0x80000200#32 0x00010403#32 0x400#32 0x80020000#32 = true := by decide
-- Q12, Q13
theorem test_interrupt_after_exception :
    control (requested 0 (startSlots 0x0000000C#32 [] [(12, 0x00010401#32)]))
      0x80000180#32 0x00010403#32 0x420#32 0x80010000#32 = true ∧
    control (requested 0 (startSlots 0x42000039#32 [] [(12, 0x00010401#32)]))
      0x80010004#32 0x00000401#32 0x400#32 0#32 = true := by decide
-- 2.8: a decode failure is reported, in a delay slot too
theorem test_decode_failure :
    sees (start 0x00000001#32 []) (fun t => t.events == [.decodeFailure 0x80010000#32 1#32] && t.pc == 0x80010004#32 &&
      t.gpr == State.reset.gpr && t.cop0 == (withSlots State.reset [(9, 1#32)]).cop0) = true ∧
    sees (startInSlot 0x00000001#32) (fun t => t.pc == 0x80020000#32 && !t.isBranching) = true := by decide
-- 2.9
theorem test_refused_strobes :
    stops { start 0#32 [] with resetDone := false } .notReset = true ∧
    stops { start 0#32 [] with pc := 0x80010002#32 } .misalignedPc = true ∧
    refusedWith .noSuchInterruptLine (strobe (.requestInterrupt 3) (start 0#32 [])) = true ∧
    refusedWith .notReset (strobe (.setPc 4#32) { start 0#32 [] with resetDone := false }) = true := by decide
-- R340, R345, R30
theorem test_reset_and_set_pc :
    State.strobeReset { start 0#32 [] with hi := 5#64 } = { State.reset with mem := (start 0#32 []).mem } ∧
    strobe (.setPc 0x80020000#32) (startInSlot 0#32) =
      .next { startInSlot 0#32 with pc := 0x80020000#32, isBranching := false, delaySlot := 0 } := ⟨by decide, rfl⟩
-- a placed instruction is the one the next step runs (log 4)
theorem test_placed_word : sees (State.reset.withFetchWord 32 0x3C081234) (fun t => t.reg 8 == 0x12340000#128) = true := by
  decide

/-! ### Witnesses: the hypotheses of the statements are met

Each theorem `witness_<Name>` shows concrete states and operands that meet the hypotheses of `Obligations.<Name>`, clause
by clause, at the ends of the ranges where there are any. -/

/-- A step that is taken, as the statements about every step need. -/
def taken (s : State) : Bool := sees s (fun _ => true)

theorem step_of_taken {s : State} (h : taken s = true) : ∃ t, step s = .next t := by
  unfold taken sees at h
  cases hs : step s with
  | next t => exact ⟨t, rfl⟩
  | fault r => nomatch r
  | refused r => rw [hs] at h; exact absurd h (by simp)

theorem witness_SpecWordsDecode : (0x00851020#32, Instr.add 2 4 5) ∈ specWords := by decide
theorem witness_DecodeEncodeRoundTrip : Instr.wf (.sll 0 0 1) = true ∧ Instr.wf (.pref 31 31 0xFFFF) = true := by decide
theorem witness_DecodeAgreesWithOpcodeTable :
    rowOf 0x00000000#32 = some ⟨"NOP", 0xFFFFFFFF#32, 0#32⟩ ∧ rowOf 0x00000040#32 = some ⟨"SLL", 0xFC00003F#32, 0#32⟩ ∧
    rowOf 0x00000001#32 = none := by decide
theorem witness_IgnoredBitsDoNotMatter : decode 0x008517E0#32 = .ok (.add 2 4 5) ∧
    decode 0x03E00000#32 = .ok (.sll 0 0 0) := by decide
theorem witness_ResetState : (14#5 : Reg) ≠ 15#5 ∧ (16#5 : Reg) ≠ 15#5 := by decide
theorem witness_SetPc : State.reset.resetDone = true := rfl
theorem witness_RequestInterrupt : State.reset.resetDone = true ∧ 2 < 3 := by decide
theorem witness_StrobesBeforeResetRefused : State.resetDone { State.reset with resetDone := false } = false := rfl

/-- An `ADD`; a `J` in a delay slot; a word that does not decode, in a delay slot too. -/
theorem witness_StepRunsDecodedInstruction :
    ((start 0x00851020#32 []).resetDone = true ∧ (start 0x00851020#32 []).pc.toNat % 4 = 0 ∧
      decode (start 0x00851020#32 []).fetch.1 = .ok (.add 2 4 5) ∧
      ∃ u, exec (.add 2 4 5) (start 0x00851020#32 []).fetch.2 = .next u) ∧
    ((startInSlot 0x08000010#32).resetDone = true ∧ (startInSlot 0x08000010#32).pc.toNat % 4 = 0 ∧
      decode (startInSlot 0x08000010#32).fetch.1 = .ok (.j 0x10) ∧
      exec (.j 0x10) (startInSlot 0x08000010#32).fetch.2 = .refused .controlTransferInDelaySlot) ∧
    ((start 0x00000001#32 []).resetDone = true ∧ (start 0x00000001#32 []).pc.toNat % 4 = 0 ∧
      decode (start 0x00000001#32 []).fetch.1 = .error (.special 1) ∧
      decode (startInSlot 0x00000001#32).fetch.1 = .error (.special 1)) :=
  ⟨⟨rfl, by decide, by decide, ⟨_, rfl⟩⟩, ⟨rfl, by decide, by decide, rfl⟩, rfl, by decide, by decide, by decide⟩
theorem witness_StepRunsDecodedInstruction_interrupt :
    InterruptCondition (startSlots 0#32 [] [(12, 0x00018001#32), (13, 0x8000#32)]) ∧
    ¬ InterruptCondition State.reset :=
  ⟨⟨by decide, by decide, by decide, by decide, 15, by decide, by decide, by decide⟩, fun h => absurd h.1 (by decide)⟩
theorem witness_FetchReadsTheWordAtPc :
    route (start 0#32 []).pc = .array .localRam 0x10000 ∧ route 0x14000000#32 = .busError 0x14000000#29 ∧
    route 0x10000000#32 = .peripheral .timers 0x10000000#29 ∧ Width.word ≠ .quad := by decide
theorem witness_PlacedInstructionRunsNext : State.reset.mem.wf ∧ Instr.wf (.add 2 4 5) = true := by decide
theorem witness_MisalignedPcRefused :
    State.resetDone { State.reset with pc := 0xFFFFFFFF#32 } = true ∧
    (State.pc { State.reset with pc := 0xFFFFFFFF#32 }).toNat % 4 ≠ 0 ∧
    (State.pc { State.reset with pc := 0x00000001#32 }).toNat % 4 ≠ 0 := by decide
theorem witness_DecodeFailureIsReportedNoOp : decode 0x00000001#32 = .error (.special 1) := by decide
/-- Each line, and each global bit missing. -/
theorem witness_InterruptAdmission :
    [(0x00010401#32, 0x400#32), (0x00010801#32, 0x800#32), (0x00018001#32, 0x8000#32)].all
      (fun p => interruptAdmitted p.2 p.1) = true ∧
    InterruptCondition (startSlots 0#32 [] [(12, 0x00010401#32), (13, 0x400#32)]) ∧
    InterruptCondition (startSlots 0#32 [] [(12, 0x00010801#32), (13, 0x800#32)]) ∧
    ¬ InterruptCondition (startSlots 0#32 [] [(12, 0x00010400#32), (13, 0x400#32)]) :=
  ⟨by decide, ⟨by decide, by decide, by decide, by decide, 10, by decide, by decide, by decide⟩,
    ⟨by decide, by decide, by decide, by decide, 11, by decide, by decide, by decide⟩, fun h => absurd h.1 (by decide)⟩
/-- `MTC0 $2, Count`, and an instruction that is not one. -/
theorem witness_CountAdvancesOncePerStep :
    (∃ t, step (start 0x40824800#32 []) = .next t) ∧ decode (start 0x40824800#32 []).fetch.1 = .ok (.mtc0 2 9) ∧
    (∃ t, step (start 0x00851020#32 []) = .next t) ∧ decode (start 0x00851020#32 []).fetch.1 = .ok (.add 2 4 5) :=
  ⟨step_of_taken (by decide), by decide, step_of_taken (by decide), by decide⟩
theorem witness_StepKeepsInvariant : State.reset.Inv ∧ ∃ t, step State.reset = .next t :=
  ⟨⟨by decide, fun c h => absurd h (by simp [State.reset]), by decide, by decide, by decide⟩, step_of_taken (by decide)⟩
theorem witness_PortsKeepInvariant :
    State.reset.Inv ∧ Strobe.setPc 4#32 ≠ .step ∧ (∃ t, strobe .reset State.reset = .next t) ∧
    (∃ t, strobe (.setPc 4#32) State.reset = .next t) ∧ (∃ t, strobe (.requestInterrupt 2) State.reset = .next t) ∧
    (∃ t, strobe (.environmentWrite .localRam 0 1#8) State.reset = .next t) :=
  ⟨witness_StepKeepsInvariant.1, by decide, ⟨_, rfl⟩, ⟨_, rfl⟩, ⟨_, rfl⟩, ⟨_, rfl⟩⟩
/-- A store to boot ROM, and the environment's writes at both ends of it. -/
theorem witness_BootRomNeverChanges :
    (∃ t, strobe .step (start 0xAC620000#32 [(3, 0xBFC00000#128)]) = .next t) ∧
    (∃ t, strobe (.environmentWrite .bootRom 0 1#8) State.reset = .next t) ∧ 0 < 0x00400000 ∧ 0x003FFFFF < 0x00400000 :=
  ⟨step_of_taken (by decide), ⟨_, rfl⟩, by decide, by decide⟩

/-- One state for each clause: a delay slot, a taken branch, a plain instruction. -/
theorem witness_PcAfterStep :
    ((startInSlot 0#32).isBranching = true ∧ ∃ t, step (startInSlot 0#32) = .next t) ∧
    ((start 0x10000004#32 []).isBranching = false ∧ ∃ t, step (start 0x10000004#32 []) = .next t ∧ t.isBranching = true) ∧
    ((start 0#32 []).isBranching = false ∧ ∃ t, step (start 0#32 []) = .next t ∧ t.isBranching = false) := by
  have key : ∀ {s : State} {b : Bool}, sees s (fun t => t.isBranching == b) = true →
      ∃ t, step s = .next t ∧ t.isBranching = b := by
    intro s b h
    unfold sees at h
    cases hs : step s with
    | next t => rw [hs] at h; exact ⟨t, rfl, eq_of_beq h⟩
    | fault r => nomatch r
    | refused r => rw [hs] at h; exact absurd h (by simp)
  exact ⟨⟨rfl, step_of_taken (by decide)⟩, ⟨rfl, key (by decide)⟩, ⟨rfl, key (by decide)⟩⟩
theorem witness_ExceptionLevelKeepsEPC :
    (∃ t, step (startSlots 0x0000000C#32 [] [(12, 2#32)]) = .next t) ∧
    (startSlots 0x0000000C#32 [] [(12, 2#32)]).status.getLsbD 1 = true ∧
    decode (startSlots 0x0000000C#32 [] [(12, 2#32)]).fetch.1 = .ok (.syscall 0) :=
  ⟨step_of_taken (by decide), by decide, by decide⟩
/-- `SYSCALL`, `ERET`, `EI`, `DI` with the bit set or clear that each clause speaks of. -/
theorem witness_StatusChangesOnlyByItsWriters :
    (∃ t, step (start 0x0000000C#32 []) = .next t) ∧ (start 0x0000000C#32 []).status.getLsbD 1 = false ∧
    decode (start 0x0000000C#32 []).fetch.1 = .ok (.syscall 0) ∧
    (∃ t, step (startSlots 0x42000018#32 [] [(12, 6#32)]) = .next t) ∧
    (∃ t, step (startSlots 0x42000038#32 [] [(12, 0x00010000#32)]) = .next t) ∧
    (∃ t, step (startSlots 0x42000039#32 [] [(12, 0x00010000#32)]) = .next t) :=
  ⟨step_of_taken (by decide), by decide, by decide, step_of_taken (by decide), step_of_taken (by decide),
    step_of_taken (by decide)⟩
/-- A slot outside the list, `Cause` with a pending bit, `EPC` changed by an exception. -/
theorem witness_SlotsChangeOnlyByTheirWriters :
    (16#5 : Reg) ∉ [8#5, 9#5, 12#5, 13#5, 14#5] ∧
    (∃ t, step (startSlots 0x00851020#32 [] [(13, 0x8C00#32)]) = .next t) ∧
    sees (start 0x0000000C#32 []) (fun t => t.slot 14 != State.slot (start 0x0000000C#32 []) 14) = true :=
  ⟨by decide, step_of_taken (by decide), by decide⟩
theorem witness_PairsChangeOnlyByTheirUnit :
    (∃ t, step (start 0x70851018#32 []) = .next t) ∧ decode (start 0x70851018#32 []).fetch.1 = .ok (.mult1 2 4 5) ∧
    writesPair (.mult1 2 4 5) = false ∧ (∃ t, step (start 0x00850018#32 []) = .next t) ∧
    decode (start 0x00850018#32 []).fetch.1 = .ok (.mult 0 4 5) ∧ writesPair1 (.mult 0 4 5) = false :=
  ⟨step_of_taken (by decide), by decide, rfl, step_of_taken (by decide), by decide, rfl⟩
theorem witness_UpperHalvesChangeOnlyByLQ :
    (∃ t, step (start 0x00851020#32 []) = .next t) ∧ decode (start 0x00851020#32 []).fetch.1 = .ok (.add 2 4 5) :=
  ⟨step_of_taken (by decide), by decide⟩
theorem witness_RegistersChangeOnlyAsDestination :
    (∃ t, step (start 0x00851020#32 []) = .next t) ∧ decode (start 0x00851020#32 []).fetch.1 = .ok (.add 2 4 5) ∧
    destination (.add 2 4 5) ≠ some 3 :=
  ⟨step_of_taken (by decide), by decide, by decide⟩
theorem witness_MemoryChangesOnlyByStores :
    sees (start 0xAC620000#32 [(3, 0x20000#128), (2, 0x11#128)])
      (fun t => t.mem.read 0x20000 != (start 0xAC620000#32 [(3, 0x20000#128), (2, 0x11#128)]).mem.read 0x20000) = true := by
  decide
/-- A step whose instruction names register 0 as destination. -/
theorem witness_RegisterZeroIsHardWired : (∃ t, step (start 0x00850020#32 [(4, 7#128)]) = .next t) ∧
    decode (start 0x00850020#32 [(4, 7#128)]).fetch.1 = .ok (.add 0 4 5) := ⟨step_of_taken (by decide), by decide⟩
theorem witness_PortsOnlyGrow : ∃ t, step (start 0x00851020#32 []) = .next t := step_of_taken (by decide)
theorem witness_ModeDoesNotMatter : Instr.syscall 0 ≠ .ei ∧ Instr.syscall 0 ≠ .di ∧ (∀ rt, Instr.syscall 0 ≠ .mfc0 rt 12#5) ∧
    (∀ rt, Instr.mfc0 2 13 ≠ .mtc0 rt 12#5) ∧ (∀ rt, Instr.mtc0 2 13 ≠ .mtc0 rt 12#5) := by decide
theorem witness_TakingAnException : (ExcCode.sys, 8#5, 0x180#32) ∈ exceptionRows := by decide
theorem witness_SoftwareExceptions : (opField 0x03FFFFCC#32 = 0x00#6 ∧ functField 0x03FFFFCC#32 = 0x0C#6) ∧
    (opField 0x0000000D#32 = 0x00#6 ∧ functField 0x0000000D#32 = 0x0D#6) := by decide
/-- Every row, at the address just below a multiple of its boundary. -/
theorem witness_AddressErrors :
    (alignmentRows.zip [0x8462FFFF#32, 0x9462FFFF#32, 0x8C62FFFF#32, 0x9C62FFFF#32, 0xDC62FFFF#32, 0x7862FFFF#32,
      0xA462FFFF#32, 0xAC62FFFF#32, 0xFC62FFFF#32, 0x7C62FFFF#32]).all
      (fun p => opField p.2 == p.1.op && (accessAddress State.reset p.2).toNat % p.1.bytes != 0) = true := by decide
theorem witness_Jumps : State.reset.isBranching = false ∧ opField 0x0BFFFFFF#32 = 0x02#6 ∧ opField 0x0C000010#32 = 0x03#6 ∧
    selects 0x00#6 0x08#6 0x00800008#32 ∧ selects 0x00#6 0x09#6 0x00802809#32 ∧ selects 0x00#6 0x09#6 0x00800009#32 :=
  ⟨rfl, by decide, by decide, by unfold selects; decide, by unfold selects; decide, by unfold selects; decide⟩

/-- `x[4]` is 1, 0 or -1, `x[5]` is 0. -/
def holds (v : QWord) : State := withRegs State.reset [(4, v)]

/-- A row's word, with a state in which its condition holds and one in which it fails. -/
def BothWays (row : BranchRow) : Prop := ∃ w, row.selects w = true ∧ (∃ s, s.isBranching = false ∧ row.condition s w) ∧
  ∃ s, s.isBranching = false ∧ ¬ row.condition s w

theorem both_equal (w : Word) (i : Word → Instr) (p : Word → Bool) (hp : p w = true) (hw : rsField w = 4#5 ∧ rtField w = 5#5) :
    BothWays ⟨p, i, equalRsRt⟩ ∧ BothWays ⟨p, i, fun s w => ¬ equalRsRt s w⟩ := by
  have h0 : equalRsRt (holds 0#128) w := by unfold equalRsRt; rw [hw.1, hw.2]; decide
  have h1 : ¬ equalRsRt (holds 1#128) w := by unfold equalRsRt; rw [hw.1, hw.2]; decide
  exact ⟨⟨w, hp, ⟨_, rfl, h0⟩, ⟨_, rfl, h1⟩⟩, ⟨w, hp, ⟨_, rfl, h1⟩, ⟨_, rfl, not_not_intro h0⟩⟩⟩

theorem both_sign (w : Word) (i : Word → Instr) (p : Word → Bool) (hp : p w = true) (hw : rsField w = 4#5) :
    BothWays ⟨p, i, fun s w => signedRs s w ≤ 0⟩ ∧ BothWays ⟨p, i, fun s w => signedRs s w > 0⟩ ∧
    BothWays ⟨p, i, fun s w => signedRs s w < 0⟩ ∧ BothWays ⟨p, i, fun s w => signedRs s w ≥ 0⟩ := by
  have h0 : signedRs (holds 0#128) w = 0 := by unfold signedRs; rw [hw]; decide
  have h1 : signedRs (holds 1#128) w = 1 := by unfold signedRs; rw [hw]; decide
  have h2 : signedRs (holds 0xFFFFFFFFFFFFFFFF#128) w = -1 := by unfold signedRs; rw [hw]; decide
  exact ⟨⟨w, hp, ⟨holds 0#128, rfl, by simp only [h0]; decide⟩, ⟨holds 1#128, rfl, by simp only [h1]; decide⟩⟩,
    ⟨w, hp, ⟨holds 1#128, rfl, by simp only [h1]; decide⟩, ⟨holds 0#128, rfl, by simp only [h0]; decide⟩⟩,
    ⟨w, hp, ⟨holds 0xFFFFFFFFFFFFFFFF#128, rfl, by simp only [h2]; decide⟩, ⟨holds 0#128, rfl, by simp only [h0]; decide⟩⟩,
    ⟨w, hp, ⟨holds 0#128, rfl, by simp only [h0]; decide⟩,
      ⟨holds 0xFFFFFFFFFFFFFFFF#128, rfl, by simp only [h2]; decide⟩⟩⟩

theorem witness_OrdinaryBranches : ∀ row ∈ ordinaryBranches, BothWays row := by
  simp only [ordinaryBranches, List.forall_mem_cons, List.not_mem_nil, false_imp_iff, implies_true, and_true]
  exact ⟨(both_equal 0x10850004#32 _ _ (by decide) (by decide)).1, (both_equal 0x1485FFFF#32 _ _ (by decide) (by decide)).2,
    (both_sign 0x18800004#32 _ _ (by decide) (by decide)).1, (both_sign 0x1C800004#32 _ _ (by decide) (by decide)).2.1,
    (both_sign 0x04800004#32 _ _ (by decide) (by decide)).2.2.1, (both_sign 0x04810004#32 _ _ (by decide) (by decide)).2.2.2⟩
theorem witness_LikelyBranches : ∀ row ∈ likelyBranches, BothWays row := by
  simp only [likelyBranches, List.forall_mem_cons, List.not_mem_nil, false_imp_iff, implies_true, and_true]
  exact ⟨(both_equal 0x50850004#32 _ _ (by decide) (by decide)).1, (both_equal 0x54850004#32 _ _ (by decide) (by decide)).2,
    (both_sign 0x58800004#32 _ _ (by decide) (by decide)).1, (both_sign 0x5C800004#32 _ _ (by decide) (by decide)).2.1,
    (both_sign 0x04820004#32 _ _ (by decide) (by decide)).2.2.1, (both_sign 0x04830004#32 _ _ (by decide) (by decide)).2.2.2⟩
theorem witness_BranchAndLink : ∀ row ∈ ordinaryLinkBranches ++ likelyLinkBranches, BothWays row := by
  simp only [ordinaryLinkBranches, likelyLinkBranches, List.cons_append, List.nil_append, List.forall_mem_cons,
    List.not_mem_nil, false_imp_iff, implies_true, and_true]
  exact ⟨(both_sign 0x04900004#32 _ _ (by decide) (by decide)).2.2.1, (both_sign 0x04910004#32 _ _ (by decide) (by decide)).2.2.2,
    (both_sign 0x04920004#32 _ _ (by decide) (by decide)).2.2.1, (both_sign 0x04930004#32 _ _ (by decide) (by decide)).2.2.2⟩
theorem witness_ControlTransferInDelaySlotRefused :
    (startInSlot 0#32).isBranching = true ∧ neverInDelaySlot .eret = true ∧
    equalRsRt (startInSlot 0#32) 0x10850004#32 ∧ ¬ ¬ equalRsRt (startInSlot 0#32) 0x14850004#32 :=
  ⟨rfl, rfl, by unfold equalRsRt; decide, not_not_intro (by unfold equalRsRt; decide)⟩

/-- Every row, at the highest aligned address below `0x20000`. -/
theorem witness_AlignedLoads :
    (alignedLoads.zip [0x8062FFFF#32, 0x9062FFFF#32, 0x8462FFFE#32, 0x9462FFFE#32, 0x8C62FFFC#32, 0x9C62FFFC#32,
      0xDC62FFF8#32]).all (fun p => opField p.2 == p.1.op &&
        (accessAddress (start 0#32 [(3, 0x20000#128)]) p.2).toNat % p.1.bytes == 0) = true := by decide
theorem witness_LoadQuadword : opField 0x7862FFF0#32 = 0x1E#6 ∧
    (accessAddress (start 0#32 [(3, 0x20000#128)]) 0x7862FFF0#32).toNat % 16 = 0 := by decide
theorem witness_AlignedStores : (start 0#32 [(3, 0x20000#128)]).mem.wf ∧
    (alignedStores.zip [0xA062FFFF#32, 0xA462FFFE#32, 0xAC62FFFC#32, 0xFC62FFF8#32, 0x7C62FFF0#32]).all
      (fun p => opField p.2 == p.1.op &&
        (accessAddress (start 0#32 [(3, 0x20000#128)]) p.2).toNat % p.1.bytes == 0) = true := by decide
theorem witness_UnalignedLoads : mergeLoads.map (fun row => row.op) =
    [0x88620000#32, 0x98620003#32, 0x68620007#32, 0x6C62FFFF#32].map opField := by decide
theorem witness_UnalignedStores : (start 0#32 []).mem.wf ∧ mergeStores.map (fun row => row.op) =
    [0xA8620000#32, 0xB8620003#32, 0xB0620007#32, 0xB462FFFF#32].map opField := by decide
/-- A word and a doubleword that start at offset 1 of local RAM. -/
theorem witness_UnalignedIdiom : (2#5 : Reg) ≠ 0#5 ∧ (2#5 : Reg) ≠ 3#5 ∧
    route (State.reset.effectiveAddress 3 1) = .array .localRam 1 ∧
    State.reset.effectiveAddress 3 4 = State.reset.effectiveAddress 3 1 + 3#32 ∧
    route (State.reset.effectiveAddress 3 4) = .array .localRam (1 + 3) ∧
    State.reset.effectiveAddress 3 8 = State.reset.effectiveAddress 3 1 + 7#32 ∧
    route (State.reset.effectiveAddress 3 8) = .array .localRam (1 + 7) := by decide

/-- A word of every row of a table of three-register instructions. -/
def wordsOf (table : List ThreeReg) (words : List Word) : Bool :=
  table.length == words.length && (table.zip words).all (fun p => opField p.2 == 0x00#6 && functField p.2 == p.1.funct)
def wordsOfImmediate (table : List Immediate) (words : List Word) : Bool :=
  table.length == words.length && (table.zip words).all (fun p => opField p.2 == p.1.op)
def wordsOfShift (table : List ImmediateShift) (words : List Word) : Bool :=
  table.length == words.length &&
    (table.zip words).all (fun p => p.2 != 0#32 && opField p.2 == 0x00#6 && functField p.2 == p.1.funct)

theorem witness_WordArithmetic :
    wordsOf wordThreeReg [0x00851020#32, 0x00851021#32, 0x00851022#32, 0x00851023#32] = true ∧
    wordsOfImmediate wordImmediate [0x2082FFFF#32, 0x24827FFF#32] = true := by decide
theorem witness_DoubleArithmetic :
    wordsOf doubleThreeReg [0x0085102C#32, 0x0085102D#32, 0x0085102E#32, 0x0085102F#32] = true ∧
    wordsOfImmediate doubleImmediate [0x6082FFFF#32, 0x64828000#32] = true := by decide
theorem witness_LogicalOperations :
    wordsOf logicalThreeReg [0x00851024#32, 0x00851025#32, 0x00851026#32, 0x00851027#32] = true ∧
    wordsOfImmediate logicalImmediate [0x30828001#32, 0x34828001#32, 0x3882FFFF#32] = true ∧
    opField 0x3C028000#32 = 0x0F#6 := by decide
theorem witness_SetOnLessThan : wordsOf setLessThreeReg [0x0085102A#32, 0x0085102B#32] = true ∧
    wordsOfImmediate setLessImmediate [0x2882FFFF#32, 0x2C82FFFF#32] = true := by decide
theorem witness_WordShifts : wordsOfShift wordShifts [0x000517C0#32, 0x00051042#32, 0x00051103#32] = true ∧
    wordsOf wordVariableShifts [0x00851004#32, 0x00851006#32, 0x00851007#32] = true := by decide
theorem witness_DoubleShifts :
    wordsOfShift doubleShifts [0x000517F8#32, 0x0005107A#32, 0x0005107B#32, 0x0005103C#32, 0x000517FE#32, 0x000517FF#32] = true ∧
    wordsOf doubleVariableShifts [0x00851014#32, 0x00851016#32, 0x00851017#32] = true := by decide
theorem witness_Multiply : selects 0x00#6 0x18#6 0x00851018#32 ∧ selects 0x00#6 0x19#6 0x00851019#32 ∧
    selects 0x1C#6 0x18#6 0x70851018#32 ∧ selects 0x1C#6 0x19#6 0x70851019#32 := by unfold selects; decide
/-- Each corner, and operands next to it that are none. -/
theorem witness_Divide :
    (selects 0x00#6 0x1A#6 0x0085001A#32 ∧ selects 0x00#6 0x1B#6 0x0085001B#32 ∧ selects 0x1C#6 0x1A#6 0x7085001A#32 ∧
      selects 0x1C#6 0x1B#6 0x7085001B#32) ∧
    (0x80000000#32).toInt = -2147483648 ∧ (0xFFFFFFFF#32).toInt = -1 ∧ (0#32).toInt = 0 ∧ (1#32).toInt ≠ 0 ∧
    (0x80000001#32).toInt ≠ -2147483648 := by unfold selects; decide
theorem witness_PairMoves : (selects 0x00#6 0x10#6 0x00001010#32 ∧ selects 0x00#6 0x12#6 0x00001012#32 ∧
    selects 0x1C#6 0x10#6 0x70001010#32 ∧ selects 0x1C#6 0x12#6 0x70001012#32) ∧
    selects 0x00#6 0x11#6 0x00800011#32 ∧ selects 0x00#6 0x13#6 0x00800013#32 ∧
    selects 0x1C#6 0x11#6 0x70800011#32 ∧ selects 0x1C#6 0x13#6 0x70800013#32 := by unfold selects; decide
/-- Zero, and a value that is zero in its low word only. -/
theorem witness_ConditionalMoves : selects 0x00#6 0x0A#6 0x0085100A#32 ∧ selects 0x00#6 0x0B#6 0x0085100B#32 ∧
    ((State.reset.reg 5).setWidth 64 = 0#64) ∧
    (((withRegs State.reset [(5, 0x100000000#128)]).reg 5).setWidth 64 ≠ 0#64) := by unfold selects; decide
theorem witness_NoEffectInstructions :
    (noEffectWords.zip [0x00000000#32, 0x0000040F#32, 0xBC740001#32, 0xCC000000#32, 0x42000001#32, 0x42000002#32,
      0x42000006#32, 0x42000008#32]).all (fun p => p.1.1 p.2) = true := by decide
theorem witness_PrivilegedMoves : (opField 0x40026000#32 = 0x10#6 ∧ rsField 0x40026000#32 = 0x00#5) ∧
    (opField 0x40826000#32 = 0x10#6 ∧ rsField 0x40826000#32 = 0x04#5) := by decide
/-- With `ERL` set and with it clear. -/
theorem witness_ExceptionReturn : cop0Co 0x18#6 0x42000018#32 = true ∧ State.reset.isBranching = false ∧
    (startSlots 0#32 [] [(12, 4#32)]).status.getLsbD 2 = true ∧ State.reset.status.getLsbD 2 = false := by decide
/-- Kernel mode, which the condition admits, and user mode without `EDI`, which it does not. -/
theorem witness_InterruptEnableInstructions : cop0Co 0x38#6 0x42000038#32 = true ∧ cop0Co 0x39#6 0x42000039#32 = true ∧
    MayChangeEIE State.reset ∧ ¬ MayChangeEIE (startSlots 0#32 [] [(12, 0x10#32)]) := by
  unfold MayChangeEIE
  decide
/-- Both ends of every range, and the addresses next to them. -/
theorem witness_AddressMap :
    [(0x00000000, true), (0x01FFFFFF, true), (0x02000000, false)].all (fun p => decide (physicalNumber p.1 < 0x02000000) == p.2) = true ∧
    physicalNumber 0x30100000 = 0x00100000 ∧ physicalNumber 0x31FFFFFF = 0x01FFFFFF ∧ physicalNumber 0x300FFFFF = 0x100FFFFF ∧
    physicalNumber 0x32000000 = 0x12000000 ∧ 0x1FC00000 ≤ physicalNumber 0xBFC00000 ∧ physicalNumber 0xFFFFFFFF = 0x1FFFFFFF ∧
    (0x1C000000 ≤ physicalNumber 0x1C1FFFFF ∧ physicalNumber 0x1C1FFFFF < 0x1C200000) ∧
    peripheralRanges.all (fun row => row.2.1 ≤ physicalNumber row.2.1 && physicalNumber row.2.2 ≤ row.2.2) = true ∧
    (peripheralRanges.all (fun row => !(row.2.1 ≤ 0x10004000 && 0x10004000 ≤ row.2.2))) = true := by decide
theorem test_route_edges :
    (peripheralRanges.all (fun row => route (BitVec.ofNat 32 row.2.1) == .peripheral row.1 (BitVec.ofNat 29 row.2.1) &&
      route (BitVec.ofNat 32 row.2.2) == .peripheral row.1 (BitVec.ofNat 29 row.2.2))) = true ∧
    route 0x01FFFFFF#32 = .array .localRam 0x01FFFFFF ∧ route 0x1C1FFFFF#32 = .array .companionRam 0x1FFFFF ∧
    route 0x1C200000#32 = .busError 0x1C200000#29 ∧ route 0x1FBFFFFF#32 = .busError 0x1FBFFFFF#29 ∧
    route 0x6FFFFFFF#32 = .busError 0x0FFFFFFF#29 := by decide

end Sys2Proof.Tests
end

section
/-! PROOFS. What the input ports other than `step`, and an environment write, answer (`70_reset_and_hazards.md` R340,
R345, `60_exceptions.md` R312, `00_scope.md` R5), and that each of them keeps the invariant. -/

namespace Sys2Proof.Machine

/-! ### What each move answers -/

theorem State.setPc_eq_next {s t : State} {entry : VAddr} :
    s.setPc entry = .next t ↔
      s.resetDone = true ∧ t = { s with pc := entry, isBranching := false, delaySlot := 0 } := by
  unfold State.setPc
  cases s.resetDone <;> simp [eq_comm]

theorem State.requestInterrupt_eq_next {s t : State} {line : Nat} :
    s.requestInterrupt line = .next t ↔ s.resetDone = true ∧ line ≤ 2 ∧ t = s.assertLines (lineMask line) := by
  unfold State.requestInterrupt
  cases s.resetDone <;> by_cases hline : line ≤ 2 <;> simp [hline, eq_comm]

theorem State.environmentWrite_cases (s : State) (r : Region) (offset : Nat) (b : Byte) :
    s.environmentWrite r offset b = s ∨
    (r ≠ .bootRom ∧ offset < regionSize r ∧
      s.environmentWrite r offset b = { s with mem := s.mem.write (cellOf r offset) b }) := by
  unfold State.environmentWrite
  split
  · exact .inl rfl
  · next h =>
    obtain ⟨hr, ho⟩ := not_or.1 h
    exact .inr ⟨hr, Nat.lt_of_not_le ho, rfl⟩

/-! ### What keeps the invariant -/

theorem cellExists_cellOf {r : Region} {offset : Nat} (h : offset < regionSize r) : cellExists (cellOf r offset) :=
  ⟨r, Nat.le_add_right _ _, Nat.add_lt_add_left h _⟩

/-- A write inside an array lists only cells of arrays. -/
theorem Memory.cellExists_write {m : Memory} (hm : ∀ c ∈ m, cellExists c.1) {r : Region} {offset : Nat}
    (h : offset < regionSize r) (b : Byte) : ∀ c ∈ m.write (cellOf r offset) b, cellExists c.1 := by
  intro c hc
  rcases Memory.mem_write hc with hc | ⟨rfl, -⟩
  · exact hm c hc
  · exact cellExists_cellOf h

/-- The invariant speaks of the memory, `x[0]` and the branch state only. -/
theorem State.Inv.of_eq {s t : State} (h : s.Inv) (hmem : t.mem = s.mem) (hgpr : t.gpr = s.gpr)
    (hbranch : t.isBranching = s.isBranching) (hslot : t.delaySlot = s.delaySlot) : t.Inv where
  memCanonical := hmem ▸ h.memCanonical
  memInArrays := hmem ▸ h.memInArrays
  zeroStored := hgpr ▸ h.zeroStored
  delaySlotSmall := hslot ▸ h.delaySlotSmall
  delaySlotConsistent := by rw [hslot, hbranch, h.delaySlotConsistent]

theorem State.Inv.assertLines {s : State} (h : s.Inv) (w : Word) : (s.assertLines w).Inv :=
  h.of_eq (State.assertLines_mem s w) (State.assertLines_gpr s w) (State.assertLines_isBranching s w)
    (State.assertLines_delaySlot s w)

theorem State.Inv.strobeReset {s : State} (h : s.Inv) : s.strobeReset.Inv where
  memCanonical := h.memCanonical
  memInArrays := h.memInArrays
  zeroStored := by simp [State.strobeReset, State.reset]
  delaySlotSmall := by simp [State.strobeReset, State.reset]
  delaySlotConsistent := by simp [State.strobeReset, State.reset]

theorem State.Inv.setPc {s t : State} {entry : VAddr} (h : s.Inv) (ht : s.setPc entry = .next t) : t.Inv := by
  obtain ⟨-, rfl⟩ := State.setPc_eq_next.1 ht
  exact { memCanonical := h.memCanonical
          memInArrays := h.memInArrays
          zeroStored := h.zeroStored
          delaySlotSmall := by simp
          delaySlotConsistent := by simp }

theorem State.Inv.requestInterrupt {s t : State} {line : Nat} (h : s.Inv) (ht : s.requestInterrupt line = .next t) :
    t.Inv := by
  obtain ⟨-, -, rfl⟩ := State.requestInterrupt_eq_next.1 ht
  exact h.assertLines _

theorem State.Inv.environmentWrite {s : State} (h : s.Inv) (r : Region) (offset : Nat) (b : Byte) :
    (s.environmentWrite r offset b).Inv := by
  obtain heq | ⟨-, ho, heq⟩ := State.environmentWrite_cases s r offset b <;> rw [heq]
  · exact h
  · exact { memCanonical := Memory.wf_write h.memCanonical _ _
            memInArrays := Memory.cellExists_write h.memInArrays ho b
            zeroStored := h.zeroStored
            delaySlotSmall := h.delaySlotSmall
            delaySlotConsistent := h.delaySlotConsistent }

/-- Settles O19, by cases on the move: each has its own `State.Inv` lemma above. -/
theorem portsKeepInvariant : Obligations.PortsKeepInvariant := by
  intro p s t h hp ht
  cases p with
  | reset =>
    obtain rfl := Host.Outcome.next.inj ht
    exact h.strobeReset
  | setPc entry => exact h.setPc ht
  | step => exact absurd rfl hp
  | requestInterrupt line => exact h.requestInterrupt ht
  | environmentWrite r offset b =>
    obtain rfl := Host.Outcome.next.inj ht
    exact h.environmentWrite r offset b

end Sys2Proof.Machine
end

section
/-! PROOFS. What holds of every step, whatever its instruction (`10_state.md` R12 to R31): the invariant, the ways of
`pc`, and who writes which part of the state. `step_effect` says once what a step does: fetch, the effects of one
instruction, its outcome, the bookkeeping. Each statement then follows the part it speaks of through these stages. -/

namespace Sys2Proof.Machine

open Sys2Proof.Claims

/-! ### The state after the fetch -/

@[simp] theorem fetch_mem (s : State) : s.fetch.2.mem = s.mem := (fetch_frame s).mem
@[simp] theorem fetch_pc (s : State) : s.fetch.2.pc = s.pc := (fetch_frame s).pcs.1
@[simp] theorem fetch_branchPc (s : State) : s.fetch.2.branchPc = s.branchPc := (fetch_frame s).pcs.2.1
@[simp] theorem fetch_isBranching (s : State) : s.fetch.2.isBranching = s.isBranching := (fetch_frame s).pcs.2.2.1
@[simp] theorem fetch_delaySlot (s : State) : s.fetch.2.delaySlot = s.delaySlot := (fetch_frame s).pcs.2.2.2
@[simp] theorem reg_fetch (s : State) (r : Reg) : s.fetch.2.reg r = s.reg r := State.reg_congr (fetch_frame s).gpr r

theorem slot_fetch (s : State) {n : Reg} (h : n ≠ 13#5) : s.fetch.2.slot n = s.slot n :=
  (fetch_frame s).slots n (by simpa using h)

@[simp] theorem status_fetch (s : State) : s.fetch.2.status = s.status := slot_fetch s (by decide)

/-- A store computes its address from registers, which the fetch keeps. -/
@[simp] theorem storeAddress_fetch (s : State) (i : Instr) : storeAddress s.fetch.2 i = storeAddress s i := by
  have hea : ∀ base offset, s.fetch.2.effectiveAddress base offset = s.effectiveAddress base offset := by
    simp [State.effectiveAddress, State.word_eq]
  cases i <;> simp only [storeAddress, hea]

theorem returnTarget_cases (s : State) : s.returnTarget = s.slot 14#5 ∨ s.returnTarget = s.slot 30#5 := by
  unfold State.returnTarget
  split
  · exact .inr rfl
  · exact .inl rfl

/-! ### The instruction a word acts as -/

/-- The instruction whose effects a fetched word has: a decode failure is reported and otherwise acts as `NOP`
(`30_encoding.md` R80). -/
def instrOf (w : Word) : Instr :=
  match decode w with
  | .ok i => i
  | .error _ => .nop

theorem instrOf_ok {w : Word} {i : Instr} (h : decode w = .ok i) : instrOf w = i := by simp [instrOf, h]
theorem instrOf_error {w : Word} {e : DecodeError} (h : decode w = .error e) : instrOf w = .nop := by
  simp [instrOf, h]

/-- What holds of the decoded instruction, and of `NOP`, holds of the instruction a word acts as. -/
theorem instrOf_of_decode {w : Word} {P : Instr → Prop} (h : ∀ i, decode w = .ok i → P i) (hnop : P .nop) :
    P (instrOf w) := by
  cases hd : decode w with
  | ok i => exact instrOf_ok hd ▸ h i hd
  | error e => exact instrOf_error hd ▸ hnop

theorem decode_of_instrOf {w : Word} (h : instrOf w ≠ .nop) : decode w = .ok (instrOf w) := by
  cases hd : decode w with
  | ok i => rw [instrOf_ok hd]
  | error e => exact absurd (instrOf_error hd) h

theorem instrOf_ne {w : Word} {i : Instr} (h : decode w ≠ .ok i) (hi : i ≠ .nop) : instrOf w ≠ i := by
  rintro rfl
  exact h (decode_of_instrOf hi)

theorem instrOf_ne_mtc0 {w : Word} {n : Reg} (h : ∀ rt, decode w ≠ .ok (.mtc0 rt n)) (rt : Reg) :
    instrOf w ≠ .mtc0 rt n :=
  instrOf_ne (h rt) (by simp)

/-- What a step does (`40_step_driver.md` R92): the fetch, the effects of the instruction in `m`, its outcome in `u`,
the bookkeeping. -/
theorem step_effect {s t : State} (h : step s = .next t) :
    ∃ m out u, Effect (instrOf s.fetch.1) s.fetch.2 m out ∧ m.finish out = .next u ∧ t = u.bookkeeping := by
  obtain ⟨-, -, u, rfl, ⟨i, m, out, hd, he, hf⟩ | ⟨e, hd, rfl⟩⟩ := step_cases h
  · exact ⟨m, out, u, (instrOf_ok hd).symm ▸ he, hf, rfl⟩
  · refine ⟨_, .next, _, ?_, finish_next _, rfl⟩
    rw [instrOf_error hd]
    exact .of_bus rfl (State.busFrame_emit _ _) (.of_eq rfl) ⟨[_], rfl, Nat.le_succ 1⟩

/-! ### Registers -/

theorem finish_reg {u t : State} {out : Control} (h : u.finish out = .next t) (r : Reg) : t.reg r = u.reg r :=
  State.reg_congr (finish_gpr h) r

/-- Step 6 of R92 clears the storage of `x[0]`, and an interrupt taken in step 8 writes no register. -/
theorem bookkeeping_zero (u : State) : u.bookkeeping.gpr[0] = 0#128 := by
  obtain ⟨-, h⟩ | ⟨-, h⟩ := bookkeeping_cases u <;> simp [h]

/-- Settles O28: reads and writes by the register rules, the storage by the bookkeeping that ends every step. -/
theorem registerZeroIsHardWired : Obligations.RegisterZeroIsHardWired := by
  refine ⟨State.reg_zero, fun s q v w => ⟨rfl, rfl, rfl⟩, fun s t h => ?_⟩
  obtain ⟨-, -, u, -, -, rfl⟩ := step_effect h
  exact bookkeeping_zero u

/-- Settles O27: fetch, outcome and bookkeeping write no register, and the effects of an instruction write its
destination only. -/
theorem registersChangeOnlyAsDestination : Obligations.RegistersChangeOnlyAsDestination := by
  intro s t r h hdest
  obtain ⟨m, out, u, he, hf, rfl⟩ := step_effect h
  have hm := he.registers r (instrOf_of_decode hdest (by simp [destination]))
  rw [reg_bookkeeping, finish_reg hf, hm, reg_fetch]

/-- Settles O26: as for O27, since every register write but that of `LQ` keeps the upper half. -/
theorem upperHalvesChangeOnlyByLQ : Obligations.UpperHalvesChangeOnlyByLQ := by
  intro s t r h hlq
  obtain ⟨m, out, u, he, hf, rfl⟩ := step_effect h
  have hm := he.uppers r fun base offset => instrOf_ne (hlq base offset) (by simp)
  rw [reg_bookkeeping, finish_reg hf, hm, reg_fetch]

/-! ### Multiply and divide pairs -/

theorem samePairs_trans {s t u : State} (h : SamePairs s t) (h' : SamePairs t u) : SamePairs s u := by
  obtain ⟨h1, h2, h3, h4⟩ := h
  obtain ⟨h1', h2', h3', h4'⟩ := h'
  exact ⟨h1'.trans h1, h2'.trans h2, h3'.trans h3, h4'.trans h4⟩

/-- Settles O25: only the effects of the instruction reach a pair, not the fetch, the outcome or the bookkeeping. -/
theorem pairsChangeOnlyByTheirUnit : Obligations.PairsChangeOnlyByTheirUnit := by
  intro s t h
  obtain ⟨m, out, u, he, hf, rfl⟩ := step_effect h
  obtain ⟨hhi, hlo, hhi1, hlo1⟩ := samePairs_trans (finish_pairs hf) (bookkeeping_pairs u)
  obtain ⟨fhi, flo, fhi1, flo1⟩ := (fetch_frame s).pairs
  refine ⟨fun hw => ?_, fun hw => ?_⟩
  · obtain ⟨mhi, mlo⟩ := he.pair (instrOf_of_decode hw rfl)
    exact ⟨hhi.trans (mhi.trans fhi), hlo.trans (mlo.trans flo)⟩
  · obtain ⟨mhi, mlo⟩ := he.pair1 (instrOf_of_decode hw rfl)
    exact ⟨hhi1.trans (mhi.trans fhi1), hlo1.trans (mlo.trans flo1)⟩

/-! ### Memory -/

/-- After its instruction's effects a step leaves memory alone. -/
theorem finish_bookkeeping_mem {m u : State} {out : Control} (h : m.finish out = .next u) :
    u.bookkeeping.mem = m.mem :=
  (bookkeeping_mem u).trans (finish_mem h)

/-- Settles O29: only the effects of the instruction reach memory, and a decode failure, acting as `NOP`, stores
nothing. -/
theorem memoryChangesOnlyByStores : Obligations.MemoryChangesOnlyByStores := by
  intro s t a h hne
  obtain ⟨m, out, u, he, hf, rfl⟩ := step_effect h
  rw [finish_bookkeeping_mem hf, ← fetch_mem s] at hne
  obtain ⟨ea, r, o, hstore, hroute, hr, hblock⟩ := he.memory.bytes a hne
  rw [storeAddress_fetch] at hstore
  have hdec : decode s.fetch.1 = .ok (instrOf s.fetch.1) := by
    refine decode_of_instrOf fun hnop => ?_
    rw [hnop] at hstore
    simp [storeAddress] at hstore
  exact ⟨_, ea, r, o, hdec, hstore, hroute, hr, hblock⟩

/-- No block of 16 bytes holds both a boot ROM byte and a cell of another array. -/
theorem rom_block_disjoint {r : Region} {o o' : Nat} (hr : r ≠ .bootRom) (ho : o < regionSize r) (ho' : o' < 0x400000) :
    cellOf .bootRom o' / 16 ≠ cellOf r o / 16 := by
  intro hblock
  obtain ⟨hbase, hsize⟩ := region_blocks r
  have hle : regionBase r ≤ cellOf .bootRom o' := by unfold cellOf at hblock ⊢; omega
  have hlt : cellOf .bootRom o' - regionBase r < regionSize r := by unfold cellOf at hblock ⊢; omega
  exact rom_cell_disjoint hr hlt ho' (Nat.add_sub_cancel' hle)

theorem step_rom {s t : State} (h : step s = .next t) {o : Nat} (ho : o < 0x400000) :
    t.mem.read (cellOf .bootRom o) = s.mem.read (cellOf .bootRom o) := by
  by_contra hne
  obtain ⟨i, ea, r, o', -, -, hroute, hr, hblock⟩ := memoryChangesOnlyByStores s t _ h hne
  exact rom_block_disjoint hr (route_offset_lt hroute) ho hblock

theorem environmentWrite_rom (s : State) (r : Region) (offset : Nat) (b : Byte) {o : Nat} (ho : o < 0x400000) :
    (s.environmentWrite r offset b).mem.read (cellOf .bootRom o) = s.mem.read (cellOf .bootRom o) := by
  obtain h | ⟨hr, hoff, h⟩ := State.environmentWrite_cases s r offset b <;> rw [h]
  exact Memory.read_write_of_ne _ _ (rom_cell_disjoint hr hoff ho).symm

/-- Settles O20, by cases on the move: a step stores only into other arrays, an environment write spares boot ROM, and
the other ports do not touch memory. -/
theorem bootRomNeverChanges : Obligations.BootRomNeverChanges := by
  intro p s t h o ho
  cases p with
  | reset =>
    obtain rfl := Host.Outcome.next.inj h
    rfl
  | setPc entry =>
    obtain ⟨-, rfl⟩ := State.setPc_eq_next.1 h
    rfl
  | step => exact step_rom h ho
  | requestInterrupt line =>
    obtain ⟨-, -, rfl⟩ := State.requestInterrupt_eq_next.1 h
    rfl
  | environmentWrite r offset b =>
    obtain rfl := Host.Outcome.next.inj h
    exact environmentWrite_rom s r offset b ho

/-! ### The invariant -/

/-- `delay_slot` and `is_branching` agree (R16): the part of `State.Inv` that the choice of the next `pc` moves. -/
def State.BranchConsistent (s : State) : Prop := s.delaySlot ≤ 1 ∧ (s.delaySlot = 1 ↔ s.isBranching = true)

theorem State.Inv.branchConsistent {s : State} (h : s.Inv) : s.BranchConsistent :=
  ⟨h.delaySlotSmall, h.delaySlotConsistent⟩

theorem State.BranchConsistent.of_eq {s t : State} (h : s.BranchConsistent) (hb : t.isBranching = s.isBranching)
    (hd : t.delaySlot = s.delaySlot) : t.BranchConsistent := by
  unfold State.BranchConsistent
  rwa [hb, hd]

theorem branchConsistent_normal {t : State} (hb : t.isBranching = false) (hd : t.delaySlot = 0) :
    t.BranchConsistent := by
  simp [State.BranchConsistent, hb, hd]

theorem State.BranchConsistent.advance {s : State} (h : s.BranchConsistent) : s.advance.BranchConsistent := by
  unfold State.advance
  split
  · exact branchConsistent_normal rfl rfl
  · exact h

theorem State.BranchConsistent.finish {s t : State} {out : Control} (h : s.BranchConsistent)
    (ht : s.finish out = .next t) : t.BranchConsistent := by
  obtain ⟨-, rfl⟩ | ⟨target, -, -, rfl⟩ | ⟨-, -, rfl⟩ | ⟨target, -, -, rfl⟩ | ⟨code, -, rfl⟩ := finish_cases ht
  · exact h.advance
  · simp [State.BranchConsistent]
  · exact h
  · exact branchConsistent_normal rfl rfl
  · exact branchConsistent_normal rfl rfl

theorem State.BranchConsistent.bookkeeping {s : State} (h : s.BranchConsistent) : s.bookkeeping.BranchConsistent := by
  obtain ⟨-, hb, hd, -⟩ | ⟨-, hb, hd⟩ := pc_bookkeeping s
  · exact branchConsistent_normal hb hd
  · exact h.of_eq hb hd

theorem Effect.branchConsistent {i : Instr} {s m : State} {out : Control} (he : Effect i s m out)
    (h : s.BranchConsistent) : m.BranchConsistent := by
  obtain ⟨-, -, hb, hd⟩ := he.pcs
  exact h.of_eq hb hd

/-- Settles O18: memory by the effects of the instruction, `x[0]` by step 6 of the bookkeeping, the branch state by the
outcome and by step 8. -/
theorem stepKeepsInvariant : Obligations.StepKeepsInvariant := by
  intro s t hinv h
  obtain ⟨m, out, u, he, hf, rfl⟩ := step_effect h
  have hmem : u.bookkeeping.mem = m.mem := finish_bookkeeping_mem hf
  have hfetch : s.fetch.2.BranchConsistent :=
    hinv.branchConsistent.of_eq (fetch_isBranching s) (fetch_delaySlot s)
  obtain ⟨hsmall, hiff⟩ := ((he.branchConsistent hfetch).finish hf).bookkeeping
  refine ⟨?_, fun c hc => ?_, bookkeeping_zero u, hsmall, hiff⟩
  · rw [hmem]
    exact he.memory.wf ((fetch_mem s).symm ▸ hinv.memCanonical)
  · rw [hmem] at hc
    obtain hold | hnew := he.memory.cells c hc
    · rw [fetch_mem] at hold
      exact hinv.memInArrays c hold
    · exact hnew

/-- Settles O17: at reset no cell is listed, every register is zero, and the controller is in Normal. -/
theorem invariantHoldsAtReset : Obligations.InvariantHoldsAtReset where
  memCanonical := ⟨List.Pairwise.nil, by simp [State.reset]⟩
  memInArrays := by simp [State.reset]
  zeroStored := by simp [State.reset]
  delaySlotSmall := Nat.zero_le 1
  delaySlotConsistent := by simp [State.reset]

theorem reg_reset (r : Reg) : State.reset.reg r = 0#128 := by
  unfold State.reg
  split
  · rfl
  · simp [State.reset]

/-- The reset slots are all zero but for the one write of `PRId`. -/
theorem slot_reset (n : Reg) : State.reset.slot n = if n = 15#5 then 0x00002E20#32 else 0#32 := by
  have hslot : State.reset.slot n =
      (State.setSlot { State.reset with cop0 := Vector.replicate 32 0#32 } 15#5 Config.pridValue).slot n := rfl
  rw [hslot, State.slot_setSlot]
  simp [State.slot, Config.pridValue]

/-- Settles O5, field by field; the registers and slots by the two lemmas above. -/
theorem resetState : Obligations.ResetState := by
  refine ⟨rfl, rfl, rfl, rfl, rfl, rfl, reg_reset, ⟨rfl, rfl, rfl, rfl⟩, ?_, fun n hn => ?_, fun a => rfl⟩
  · rw [slot_reset, if_pos rfl]
  · rw [slot_reset, if_neg hn]

end Sys2Proof.Machine
end

section
/-! PROOFS. Where `pc` goes in a step (`10_state.md` R15, `40_step_driver.md` R92 to R100) and who writes which bit of
the control slots (`10_state.md` R20 to R29, `60_exceptions.md` R300, R310). Both turn on the same alternative: a step
ends at an exception entry, or it ends as its instruction's outcome says and writes no slot but `Count` on the way. -/

namespace Sys2Proof.Machine

open Sys2Proof.Claims

/-! ### The ways of `pc` -/

/-- An instruction that ends in an exception ends at an entry point. -/
theorem isEntryPoint_of_mayEnd {i : Instr} {s : State} {code : ExcCode} (h : mayEnd i s (.exception code)) (m : State) :
    isEntryPoint (m.takeException code).pc :=
  State.isEntryPoint_takeException m (.inr h)

section
variable {i : Instr} {s m u : State} {out : Control}

/-- From BranchPending the pending branch completes, or an exception drops it (R95, R99). -/
theorem Effect.pc_from_slot (he : Effect i s m out) (hf : m.finish out = .next u) (hs : s.isBranching = true) :
    u.isBranching = false ∧ u.delaySlot = 0 ∧ (u.pc = s.branchPc ∨ isEntryPoint u.pc) := by
  have hpcs := he.pcs
  have hends := he.ends
  have hm : m.isBranching = true := hpcs.2.2.1.trans hs
  obtain ⟨-, rfl⟩ | ⟨_, -, hn, -⟩ | ⟨-, hn, -⟩ | ⟨_, -, hn, -⟩ | ⟨code, rfl, rfl⟩ := finish_cases hf
  · obtain ⟨hpc, hb, hd⟩ := (nextPc_advance hpcs).inSlot hs
    exact ⟨hb, hd, .inl hpc⟩
  · simp [hm] at hn
  · simp [hm] at hn
  · simp [hm] at hn
  · exact ⟨rfl, rfl, .inr (isEntryPoint_of_mayEnd hends m)⟩

/-- Only outcome Taken enters BranchPending, with `pc` at the delay slot (R94). -/
theorem Effect.pc_to_slot (he : Effect i s m out) (hf : m.finish out = .next u) (hu : u.isBranching = true) :
    u.delaySlot = 1 ∧ u.pc = s.pc + 4#32 ∧ isJumpOrBranch i = true := by
  obtain ⟨hpc, -, -, -⟩ := he.pcs
  have hends := he.ends
  obtain ⟨-, rfl⟩ | ⟨_, rfl, -, rfl⟩ | ⟨-, hn, rfl⟩ | ⟨_, -, -, rfl⟩ | ⟨_, -, rfl⟩ := finish_cases hf
  · simp [State.advance_isBranching] at hu
  · exact ⟨rfl, by simp [hpc], hends⟩
  · simp [hn] at hu
  · simp at hu
  · simp at hu

/-- From Normal to Normal, by the outcome: Next, Exception, Skip or Redirect. -/
theorem Effect.pc_normal (he : Effect i s m out) (hf : m.finish out = .next u) (hs : s.isBranching = false)
    (hu : u.isBranching = false) :
    u.pc = s.pc + 4#32 ∨ isEntryPoint u.pc ∨ (u.pc = s.pc + 8#32 ∧ isLikely i = true) ∨
      (i = .eret ∧ u.pc = s.returnTarget) := by
  have hpcs := he.pcs
  have hends := he.ends
  obtain ⟨-, rfl⟩ | ⟨_, -, -, rfl⟩ | ⟨rfl, -, rfl⟩ | ⟨_, rfl, -, rfl⟩ | ⟨code, rfl, rfl⟩ := finish_cases hf
  · exact .inl ((nextPc_advance hpcs).normal hs).1
  · simp at hu
  · exact .inr (.inr (.inl ⟨by simp [hpcs.1], hends⟩))
  · exact .inr (.inr (.inr hends))
  · exact .inr (.inl (isEntryPoint_of_mayEnd hends m))

end

/-- Settles O21: the three ways above lead to the state before the bookkeeping, which keeps `pc` and the branch state
or delivers an interrupt. -/
theorem pcAfterStep : Obligations.PcAfterStep := by
  intro s t h
  obtain ⟨m, out, u, he, hf, rfl⟩ := step_effect h
  refine ⟨fun hs => ?_, fun _ ht => ?_, fun hs ht => ?_⟩
  · obtain ⟨hb, hd, hpc⟩ := he.pc_from_slot hf ((fetch_isBranching s).trans hs)
    rw [fetch_branchPc] at hpc
    obtain ⟨hentry, hb', hd', -⟩ | ⟨hpc', hb', hd'⟩ := pc_bookkeeping u
    · exact ⟨hb', hd', .inr hentry⟩
    · rw [hpc']
      exact ⟨hb'.trans hb, hd'.trans hd, hpc⟩
  · obtain ⟨-, hb', -, -⟩ | ⟨hpc', hb', hd'⟩ := pc_bookkeeping u
    · simp [hb'] at ht
    · obtain ⟨hd, hpc, hjump⟩ := he.pc_to_slot hf (hb'.symm.trans ht)
      rw [fetch_pc] at hpc
      refine ⟨hd'.trans hd, hpc'.trans hpc, _, decode_of_instrOf fun hnop => ?_, hjump⟩
      simp [hnop, isJumpOrBranch] at hjump
  · obtain ⟨hentry, -, -, -⟩ | ⟨hpc', hb', -⟩ := pc_bookkeeping u
    · exact .inr (.inl hentry)
    · have hpc := he.pc_normal hf ((fetch_isBranching s).trans hs) (hb'.symm.trans ht)
      rw [fetch_pc, ← hpc'] at hpc
      obtain hnext | hentry | ⟨hskip, hlikely⟩ | ⟨heret, hret⟩ := hpc
      · exact .inl hnext
      · exact .inr (.inl hentry)
      · refine .inr (.inr (.inl ⟨hskip, _, decode_of_instrOf fun hnop => ?_, hlikely⟩))
        simp [hnop, isLikely] at hlikely
      · refine .inr (.inr (.inr ⟨heret ▸ decode_of_instrOf (by simp [heret]), ?_⟩))
        rw [hret, ← slot_fetch s (n := 14#5) (by decide), ← slot_fetch s (n := 30#5) (by decide)]
        exact returnTarget_cases _

/-! ### Bits of `Status` and `Cause` after their updates -/

theorem getLsbD_or_bit (w : Word) {k : Nat} (hk : k < 32) (b : Nat) :
    (w ||| BitVec.twoPow 32 k).getLsbD b = (w.getLsbD b || decide (b = k)) := by
  simp [BitVec.getLsbD_twoPow, hk, eq_comm]

theorem getLsbD_and_not_bit (w : Word) (k b : Nat) :
    (w &&& ~~~BitVec.twoPow 32 k).getLsbD b = (w.getLsbD b && decide (b ≠ k)) := by
  by_cases hb : b < 32
  · have hk : decide (k = b) = decide (b = k) := by simp [eq_comm]
    rw [BitVec.getLsbD_and, BitVec.getLsbD_not, BitVec.getLsbD_twoPow]
    by_cases h : b = k
    · subst h
      simp [hb]
    · simp [hb, h, hk]
  · simp [BitVec.getLsbD_of_ge w b (by omega)]

theorem getLsbD_setStatusEXL (w : Word) (b : Nat) :
    (setStatusEXL w).getLsbD b = (w.getLsbD b || decide (b = 1)) := by
  rw [← getLsbD_or_bit w (by decide), show BitVec.twoPow 32 1 = 0x00000002#32 by decide]
  rfl

theorem getLsbD_setStatusEIE (w : Word) (b : Nat) :
    (setStatusEIE w).getLsbD b = (w.getLsbD b || decide (b = 16)) := by
  rw [← getLsbD_or_bit w (by decide), show BitVec.twoPow 32 16 = 0x00010000#32 by decide]
  rfl

theorem getLsbD_clearStatusEXL (w : Word) (b : Nat) :
    (clearStatusEXL w).getLsbD b = (w.getLsbD b && decide (b ≠ 1)) := by
  rw [← getLsbD_and_not_bit, show BitVec.twoPow 32 1 = 0x00000002#32 by decide]
  rfl

theorem getLsbD_clearStatusERL (w : Word) (b : Nat) :
    (clearStatusERL w).getLsbD b = (w.getLsbD b && decide (b ≠ 2)) := by
  rw [← getLsbD_and_not_bit, show BitVec.twoPow 32 2 = 0x00000004#32 by decide]
  rfl

theorem getLsbD_clearStatusEIE (w : Word) (b : Nat) :
    (clearStatusEIE w).getLsbD b = (w.getLsbD b && decide (b ≠ 16)) := by
  rw [← getLsbD_and_not_bit, show BitVec.twoPow 32 16 = 0x00010000#32 by decide]
  rfl

/-- A 5-bit code shifted to the place of `Cause.ExcCode` has bits 6:2 only. -/
theorem getLsbD_codeBits (code : BitVec 5) {b : Nat} (hb : b < 2 ∨ 7 ≤ b) :
    ((code.setWidth 32) <<< 2).getLsbD b = false := by
  rw [BitVec.getLsbD_shiftLeft]
  obtain hb | hb := hb
  · simp [hb]
  · rw [BitVec.getLsbD_setWidth, BitVec.getLsbD_of_ge code _ (by omega)]
    simp

theorem getLsbD_setCauseExcCode (code : BitVec 5) (w : Word) {b : Nat} (hb : b < 2 ∨ 7 ≤ b) :
    (setCauseExcCode code w).getLsbD b = w.getLsbD b := by
  unfold setCauseExcCode
  rw [BitVec.getLsbD_or, getLsbD_codeBits code hb, BitVec.getLsbD_and, BitVec.getLsbD_not,
    show 0x0000007C#32 = ((0x1F#5).setWidth 32) <<< 2 by decide, getLsbD_codeBits _ hb]
  by_cases hlt : b < 32
  · simp [hlt]
  · simp [BitVec.getLsbD_of_ge w b (by omega)]

theorem getLsbD_setCauseBD (bd : Bool) (w : Word) {b : Nat} (hb : b ≠ 31) :
    (setCauseBD bd w).getLsbD b = w.getLsbD b := by
  unfold setCauseBD
  rw [show 0x80000000#32 = BitVec.twoPow 32 31 by decide]
  cases bd
  · simpa [hb] using getLsbD_and_not_bit w 31 b
  · simpa [hb] using getLsbD_or_bit w (k := 31) (by decide) b

/-! ### What the outcome and the bookkeeping do to the slots -/

theorem setStatusEXL_idem (w : Word) : setStatusEXL (setStatusEXL w) = setStatusEXL w := by
  unfold setStatusEXL
  rw [BitVec.or_assoc, BitVec.or_self]

/-- The control slots from `m` to `t`, `Count` aside, when nothing but exception entries wrote them (R300, R310). -/
structure ExceptionFrame (m t : State) : Prop where
  others : ∀ n, n ∉ [9#5, 12#5, 13#5, 14#5] → t.slot n = m.slot n
  status : t.status = m.status ∨ t.status = setStatusEXL m.status
  cause : ∀ b, b < 2 ∨ 7 ≤ b → b ≠ 31 → t.cause.getLsbD b = m.cause.getLsbD b
  held : m.status.getLsbD 1 = true → t.epc = m.epc ∧ t.cause.getLsbD 31 = m.cause.getLsbD 31

section
variable {m u t : State}

theorem ExceptionFrame.of_slots (h : ∀ n, n ≠ 9#5 → t.slot n = m.slot n) : ExceptionFrame m t where
  others n hn := h n (by simp_all)
  status := .inl (h _ (by decide))
  cause b _ _ := by rw [State.cause_eq, h _ (by decide), State.cause_eq]
  held _ := ⟨h _ (by decide), by rw [State.cause_eq, h _ (by decide), State.cause_eq]⟩

theorem ExceptionFrame.status_bit (h : ExceptionFrame m t) {b : Nat} (hb : b ≠ 1) :
    t.status.getLsbD b = m.status.getLsbD b := by
  obtain hs | hs := h.status <;> simp [hs, getLsbD_setStatusEXL, hb]

theorem ExceptionFrame.keepsEXL (h : ExceptionFrame m t) (hm : m.status.getLsbD 1 = true) :
    t.status.getLsbD 1 = true := by
  obtain hs | hs := h.status <;> simp [hs, getLsbD_setStatusEXL, hm]

theorem ExceptionFrame.trans (h : ExceptionFrame m u) (h' : ExceptionFrame u t) : ExceptionFrame m t where
  others n hn := (h'.others n hn).trans (h.others n hn)
  status := by
    obtain hs | hs := h.status <;> obtain hs' | hs' := h'.status <;> simp [hs, hs', setStatusEXL_idem]
  cause b hb hb' := (h'.cause b hb hb').trans (h.cause b hb hb')
  held hm :=
    have ⟨hepc, hbd⟩ := h.held hm
    have ⟨hepc', hbd'⟩ := h'.held (h.keepsEXL hm)
    ⟨hepc'.trans hepc, hbd'.trans hbd⟩

theorem exceptionFrame_takeException (m : State) (code : ExcCode) : ExceptionFrame m (m.takeException code) := by
  cases hexl : statusEXL m.status with
  | false =>
    have hslot := State.slot_takeException hexl code
    refine ⟨fun n hn => State.slot_takeException_other m code (by simp_all), .inr (hslot 12#5), fun b hb hb' => ?_,
      fun hm => absurd (hexl.symm.trans hm) (by decide)⟩
    rw [State.cause_eq (m.takeException code), hslot, if_neg (by decide), if_pos rfl, getLsbD_setCauseBD _ _ hb',
      getLsbD_setCauseExcCode _ _ hb]
  | true =>
    have hslot := State.slot_takeException_nested hexl code
    have hcause : (m.takeException code).cause = setCauseExcCode (excNumber code) m.cause := hslot 13#5
    refine ⟨fun n hn => State.slot_takeException_other m code (by simp_all), .inl (hslot 12#5), fun b hb _ => ?_,
      fun _ => ⟨hslot 14#5, ?_⟩⟩
    · rw [hcause, getLsbD_setCauseExcCode _ _ hb]
    · rw [hcause, getLsbD_setCauseExcCode _ _ (by decide)]

/-- An outcome other than an exception writes no slot. -/
theorem finish_slots {out : Control} (h : m.finish out = .next u) :
    (∃ code, out = .exception code ∧ u = m.takeException code) ∨
      ((∀ code, out ≠ .exception code) ∧ ∀ n, u.slot n = m.slot n) := by
  obtain ⟨rfl, rfl⟩ | ⟨_, rfl, -, rfl⟩ | ⟨rfl, -, rfl⟩ | ⟨_, rfl, -, rfl⟩ | ⟨code, rfl, rfl⟩ := finish_cases h
  · exact .inr ⟨by simp, State.slot_advance m⟩
  · exact .inr ⟨by simp, fun n => rfl⟩
  · exact .inr ⟨by simp, fun n => rfl⟩
  · exact .inr ⟨by simp, fun n => rfl⟩
  · exact .inl ⟨code, rfl, rfl⟩

/-- Steps 6 and 7 of R92 write no slot but `Count`. -/
theorem slot_ticked (u : State) {n : Reg} (hn : n ≠ 9#5) : u.clearZero.tick.slot n = u.slot n := by
  rw [State.slot_tick, if_neg hn, State.slot_clearZero]

theorem exceptionFrame_finish {out : Control} (h : m.finish out = .next u) : ExceptionFrame m u := by
  obtain ⟨code, -, rfl⟩ | ⟨-, hslots⟩ := finish_slots h
  · exact exceptionFrame_takeException m code
  · exact .of_slots fun n _ => hslots n

theorem exceptionFrame_bookkeeping (u : State) : ExceptionFrame u u.bookkeeping := by
  have htick : ExceptionFrame u u.clearZero.tick := .of_slots fun _ => slot_ticked u
  obtain ⟨-, h⟩ | ⟨-, h⟩ := bookkeeping_cases u <;> rw [h]
  · exact htick.trans (exceptionFrame_takeException _ _)
  · exact htick

/-- From the effects of the instruction to the end of the step. -/
theorem exceptionFrame_outcome {out : Control} (h : m.finish out = .next u) : ExceptionFrame m u.bookkeeping :=
  (exceptionFrame_finish h).trans (exceptionFrame_bookkeeping u)

/-- The alternative of every step: it ends at an exception entry, or no exception was taken and the slots are as the
instruction left them, `Count` aside. -/
theorem entry_or_slots_kept {i : Instr} {s : State} {out : Control} (he : Effect i s m out)
    (h : m.finish out = .next u) :
    isEntryPoint u.bookkeeping.pc ∨
      ((∀ code, out ≠ .exception code) ∧ ∀ n, n ≠ 9#5 → u.bookkeeping.slot n = m.slot n) := by
  have hends := he.ends
  obtain ⟨-, hbook⟩ | ⟨-, hbook⟩ := bookkeeping_cases u <;> rw [hbook]
  · exact .inl (State.isEntryPoint_takeException _ (.inl rfl))
  · obtain ⟨code, rfl, rfl⟩ | ⟨hout, hslots⟩ := finish_slots h
    · exact .inl (isEntryPoint_of_mayEnd hends m)
    · exact .inr ⟨hout, fun n hn => (slot_ticked u hn).trans (hslots n)⟩

end

/-! ### What the instruction does to `Status` and `Cause` -/

theorem status_leaveLevel (s : State) :
    s.leaveLevel.status = clearStatusERL s.status ∨ s.leaveLevel.status = clearStatusEXL s.status := by
  unfold State.leaveLevel
  split
  · exact .inl (State.slot_setSlot_self _ _ _)
  · exact .inr (State.slot_setSlot_self _ _ _)

section
variable {i : Instr} {s m : State} {out : Control}

theorem Effect.status_cases (he : Effect i s m out) (hmtc0 : ∀ rt, i ≠ .mtc0 rt 12#5) :
    m.status = s.status ∨
    (i = .eret ∧ (m.status = clearStatusERL s.status ∨ m.status = clearStatusEXL s.status)) ∨
    (i = .ei ∧ m.status = setStatusEIE s.status) ∨ (i = .di ∧ m.status = clearStatusEIE s.status) := by
  by_cases heret : i = .eret
  · rw [he.eret heret]
    exact .inr (.inl ⟨heret, status_leaveLevel s⟩)
  by_cases hei : i = .ei
  · exact (he.ei hei).imp_right fun h => .inr (.inl ⟨hei, h⟩)
  by_cases hdi : i = .di
  · exact (he.di hdi).imp_right fun h => .inr (.inr ⟨hdi, h⟩)
  exact .inl (he.status hmtc0 heret hei hdi)

/-- Only `EI` sets a bit of `Status`, and only `EIE`. -/
theorem Effect.status_bit_of_after (he : Effect i s m out) (hmtc0 : ∀ rt, i ≠ .mtc0 rt 12#5) {b : Nat}
    (hei : b = 16 → i ≠ .ei) (h : m.status.getLsbD b = true) : s.status.getLsbD b = true := by
  obtain hs | ⟨-, hs | hs⟩ | ⟨hi, hs⟩ | ⟨-, hs⟩ := he.status_cases hmtc0 <;> rw [hs] at h
  · exact h
  · rw [getLsbD_clearStatusERL, Bool.and_eq_true] at h
    exact h.1
  · rw [getLsbD_clearStatusEXL, Bool.and_eq_true] at h
    exact h.1
  · simpa [getLsbD_setStatusEIE, show b ≠ 16 from fun hb => hei hb hi] using h
  · rw [getLsbD_clearStatusEIE, Bool.and_eq_true] at h
    exact h.1

/-- Only `ERET` clears `ERL` or `EXL`, and only `DI` clears `EIE`. -/
theorem Effect.status_bit_of_before (he : Effect i s m out) (hmtc0 : ∀ rt, i ≠ .mtc0 rt 12#5) {b : Nat}
    (heret : b = 1 ∨ b = 2 → i ≠ .eret) (hdi : b = 16 → i ≠ .di) (h : s.status.getLsbD b = true) :
    m.status.getLsbD b = true := by
  obtain hs | ⟨hi, hs | hs⟩ | ⟨-, hs⟩ | ⟨hi, hs⟩ := he.status_cases hmtc0 <;> rw [hs]
  · exact h
  · simp [getLsbD_clearStatusERL, h, show b ≠ 2 from fun hb => heret (.inr hb) hi]
  · simp [getLsbD_clearStatusEXL, h, show b ≠ 1 from fun hb => heret (.inl hb) hi]
  · simp [getLsbD_setStatusEIE, h]
  · simp [getLsbD_clearStatusEIE, h, show b ≠ 16 from fun hb => hdi hb hi]

theorem Effect.status_bit_kept (he : Effect i s m out) (hmtc0 : ∀ rt, i ≠ .mtc0 rt 12#5) {b : Nat}
    (heret : b = 1 ∨ b = 2 → i ≠ .eret) (hb : b ≠ 16) : m.status.getLsbD b = s.status.getLsbD b :=
  Bool.eq_iff_iff.2 ⟨he.status_bit_of_after hmtc0 (absurd · hb), he.status_bit_of_before hmtc0 heret (absurd · hb)⟩

end

/-- Asserting interrupt lines changes pending bits only, and only sets them (R312). -/
theorem getLsbD_linesAsserted {before after : Word} (h : OnlyLinesAsserted before after) {b : Nat}
    (hb : b ≠ 10 ∧ b ≠ 11 ∧ b ≠ 15) : after.getLsbD b = before.getLsbD b := by
  obtain ⟨lines, hlines, rfl⟩ := h
  simp [getLsbD_lines hlines hb]

theorem getLsbD_linesAsserted_of_true {before after : Word} (h : OnlyLinesAsserted before after) {b : Nat}
    (hb : before.getLsbD b = true) : after.getLsbD b = true := by
  obtain ⟨lines, -, rfl⟩ := h
  simp [hb]

/-- Settles O22: no instruction but `ERET` and `MTC0` clears `EXL`, and an exception or interrupt taken with `EXL` set
leaves `EPC` and `Cause.BD` as they are. -/
theorem exceptionLevelKeepsEPC : Obligations.ExceptionLevelKeepsEPC := by
  intro s t h hexl heret hmtc0
  obtain ⟨m, out, u, he, hf, rfl⟩ := step_effect h
  have hno : ∀ n rt, instrOf s.fetch.1 ≠ .mtc0 rt n := fun n => instrOf_ne_mtc0 fun rt => hmtc0 rt n
  have hm : m.status.getLsbD 1 = true :=
    he.status_bit_of_before (hno _) (fun _ => instrOf_ne heret (by simp)) (by simp) ((status_fetch s).symm ▸ hexl)
  have hframe := exceptionFrame_outcome hf
  obtain ⟨hepc, hbd⟩ := hframe.held hm
  refine ⟨hepc.trans ?_, hbd.trans ?_, hframe.keepsEXL hm⟩
  · exact (he.slots 14#5 (by decide) (hno _)).trans (slot_fetch s (by decide))
  · exact (getLsbD_linesAsserted (he.cause (hno _)) (by decide)).trans
      (getLsbD_linesAsserted (fetch_frame s).cause (by decide))

/-- Settles O23: the instruction's own writes by the two lemmas on its effect, and an exception entry sets `EXL` and no
other bit. -/
theorem statusChangesOnlyByItsWriters : Obligations.StatusChangesOnlyByItsWriters := by
  intro s t h hmtc0
  obtain ⟨m, out, u, he, hf, rfl⟩ := step_effect h
  have hno := instrOf_ne_mtc0 hmtc0
  have hframe := exceptionFrame_outcome hf
  rw [← status_fetch s]
  refine ⟨fun b h1 h2 h16 => ?_, fun ht => ?_, fun hi => ?_, fun hi ht => ?_, fun hi hs => ?_, fun hi hs => ?_,
    fun hs ht => ?_⟩
  · rw [hframe.status_bit h1, he.status_bit_kept hno (by simp [h1, h2]) h16]
  · rw [hframe.status_bit (by decide)] at ht
    exact he.status_bit_of_after hno (by simp) ht
  · rw [hframe.status_bit (by decide), he.status_bit_kept hno (fun _ => instrOf_ne hi (by simp)) (by decide)]
  · rw [hframe.status_bit (by decide)] at ht
    exact he.status_bit_of_after hno (fun _ => instrOf_ne hi (by simp)) ht
  · rw [hframe.status_bit (by decide)]
    exact he.status_bit_of_before hno (by simp) (fun _ => instrOf_ne hi (by simp)) hs
  · exact hframe.keepsEXL (he.status_bit_of_before hno (fun _ => instrOf_ne hi (by simp)) (by simp) hs)
  · obtain hentry | ⟨-, hslots⟩ := entry_or_slots_kept he hf
    · exact hentry
    · rw [State.status_eq, hslots 12#5 (by decide), ← State.status_eq] at ht
      have hs' := he.status_bit_of_after hno (by simp) ht
      rw [hs] at hs'
      simp at hs'

/-- Settles O24: `Cause` bit by bit through the fetch, the instruction and the entries; `EPC` and `BadVAddr` by the
alternative of `entry_or_slots_kept`. -/
theorem slotsChangeOnlyByTheirWriters : Obligations.SlotsChangeOnlyByTheirWriters := by
  intro s t n h hmtc0
  obtain ⟨m, out, u, he, hf, rfl⟩ := step_effect h
  have hno := instrOf_ne_mtc0 hmtc0
  have hframe := exceptionFrame_outcome hf
  refine ⟨fun hn => ?_, ?_, fun hn hne => ?_⟩
  · simp only [List.mem_cons, List.not_mem_nil, or_false, not_or] at hn
    rw [hframe.others n (by simp [hn]), he.slots n (by simp [hn]) hno, slot_fetch s hn.2.2.2.1]
  · rintro rfl
    have hfetch := (fetch_frame s).cause
    have hinstr := he.cause hno
    refine ⟨fun b hb => ?_, fun b hb hs => ?_⟩
    · have hlines : b ≠ 10 ∧ b ≠ 11 ∧ b ≠ 15 := by omega
      rw [hframe.cause b (by omega) (by omega), getLsbD_linesAsserted hinstr hlines,
        getLsbD_linesAsserted hfetch hlines]
    · rw [hframe.cause b (by omega) (by omega)]
      exact getLsbD_linesAsserted_of_true hinstr (getLsbD_linesAsserted_of_true hfetch hs)
  · obtain hentry | ⟨hout, hslots⟩ := entry_or_slots_kept he hf
    · exact hentry
    · refine absurd ?_ hne
      obtain rfl | rfl := hn
      · rw [hslots _ (by decide), he.slots _ (by decide) hno, slot_fetch s (by decide)]
      · rw [hslots _ (by decide), he.badVAddr hno hout, slot_fetch s (by decide)]

end Sys2Proof.Machine
end

section
/-! PROOFS. The address map, for every address (`20_memory.md` R43 to R51): the peripheral table, then the priority
order on a physical address, then the scratchpad window before it. -/

namespace Sys2Proof.Machine

open Sys2Proof.Claims

/-! ### The peripheral table (R51) -/

theorem peripheralRanges_eq_map :
    peripheralRanges = Config.peripheralTable.map fun row => (row.unit, row.lo, row.hi) := rfl

/-- No row reaches one of the byte arrays. -/
theorem peripheralTable_between :
    ∀ row ∈ Config.peripheralTable, 0x02000000 ≤ row.lo ∧ row.hi < 0x1C000000 := by decide

/-- The rows are disjoint, so that their order does not matter. -/
theorem peripheralTable_disjoint :
    ∀ a ∈ Config.peripheralTable, ∀ b ∈ Config.peripheralTable, a.lo ≤ b.hi → b.lo ≤ a.hi → a = b := by decide

theorem peripheralAt_of_mem {p : PAddr} {row : Config.PeripheralRow} (hrow : row ∈ Config.peripheralTable)
    (hlo : row.lo ≤ p.toNat) (hhi : p.toNat ≤ row.hi) : peripheralAt p = some row.unit := by
  unfold peripheralAt
  cases hfind : Config.peripheralTable.find? fun row => decide (row.lo ≤ p.toNat) && decide (p.toNat ≤ row.hi) with
  | none => exact absurd (List.find?_eq_none.1 hfind row hrow) (by simp [hlo, hhi])
  | some first =>
    have hmatch := List.find?_some hfind
    simp only [Bool.and_eq_true, decide_eq_true_eq] at hmatch
    rw [peripheralTable_disjoint first (List.mem_of_find?_eq_some hfind) row hrow (hmatch.1.trans hhi)
      (hlo.trans hmatch.2)]
    rfl

theorem peripheralAt_eq_none {p : PAddr}
    (h : ∀ row ∈ Config.peripheralTable, ¬ (row.lo ≤ p.toNat ∧ p.toNat ≤ row.hi)) : peripheralAt p = none := by
  unfold peripheralAt
  rw [List.find?_eq_none.2 (by simpa using h)]
  rfl

/-! ### The priority order on a physical address (R48) -/

theorem routePhysical_localRam {p : PAddr} (h : p.toNat < 0x02000000) :
    routePhysical p = .array .localRam p.toNat := by
  unfold routePhysical
  rw [if_pos (by simpa [Config.ramBase, Config.ramSize] using h)]
  rfl

theorem routePhysical_bootRom {p : PAddr} (h : 0x1FC00000 ≤ p.toNat) :
    routePhysical p = .array .bootRom (p.toNat - 0x1FC00000) := by
  have hp := p.isLt
  unfold routePhysical
  rw [if_neg (by simp only [Config.ramBase, Config.ramSize]; omega),
    if_pos (by simp only [Config.romBase, Config.romSize]; omega)]
  rfl

theorem routePhysical_companionRam {p : PAddr} (h : 0x1C000000 ≤ p.toNat ∧ p.toNat < 0x1C200000) :
    routePhysical p = .array .companionRam (p.toNat - 0x1C000000) := by
  unfold routePhysical
  rw [if_neg (by simp only [Config.ramBase, Config.ramSize]; omega),
    if_neg (by simp only [Config.romBase, Config.romSize]; omega),
    if_pos (by simp only [Config.iopRamBase, Config.iopRamSize]; omega)]
  rfl

/-- Outside the three arrays the peripheral table decides. -/
theorem routePhysical_outside {p : PAddr} (hram : 0x02000000 ≤ p.toNat) (hrom : p.toNat < 0x1FC00000)
    (hiop : ¬ (0x1C000000 ≤ p.toNat ∧ p.toNat < 0x1C200000)) :
    routePhysical p = (peripheralAt p).elim (.busError p) (.peripheral · p) := by
  unfold routePhysical
  rw [if_neg (by simp only [Config.ramBase, Config.ramSize]; omega),
    if_neg (by simp only [Config.romBase, Config.romSize]; omega),
    if_neg (by simp only [Config.iopRamBase, Config.iopRamSize]; omega)]
  cases peripheralAt p <;> rfl

theorem routePhysical_peripheral {p : PAddr} {row : Config.PeripheralRow} (hrow : row ∈ Config.peripheralTable)
    (hlo : row.lo ≤ p.toNat) (hhi : p.toNat ≤ row.hi) : routePhysical p = .peripheral row.unit p := by
  obtain ⟨hmin, hmax⟩ := peripheralTable_between row hrow
  rw [routePhysical_outside (by omega) (by omega) (by omega), peripheralAt_of_mem hrow hlo hhi]
  rfl

/-! ### The scratchpad window first (R44) -/

theorem route_scratchpad {va : VAddr} (h : 0x70000000 ≤ va.toNat ∧ va.toNat ≤ 0x70003FFF) :
    route va = .array .scratchpad (va.toNat - 0x70000000) := by
  unfold route
  rw [if_pos (by simpa [Config.sprBase, Config.sprSize] using h)]
  rfl

theorem route_of_not_scratchpad {va : VAddr} (h : ¬ (0x70000000 ≤ va.toNat ∧ va.toNat ≤ 0x70003FFF)) :
    route va = routePhysical (physicalAddress va) := by
  unfold route
  rw [if_neg (by simpa [Config.sprBase, Config.sprSize] using h)]

/-- Settles O60, by the priority order: the window, then each range of the physical address. -/
theorem addressMap : Obligations.AddressMap := by
  intro va
  refine ⟨route_scratchpad, fun hwindow p hp => ?_⟩
  rw [← toNat_physicalAddress] at hp
  subst hp
  rw [route_of_not_scratchpad hwindow, BitVec.ofNat_toNat, BitVec.setWidth_eq]
  refine ⟨routePhysical_localRam, routePhysical_bootRom, routePhysical_companionRam, ?_, ?_⟩
  · rw [peripheralRanges_eq_map, List.forall_mem_map]
    exact fun row hrow h => routePhysical_peripheral hrow h.1 h.2
  · intro hram hrom hiop hnone
    rw [peripheralRanges_eq_map, List.forall_mem_map] at hnone
    rw [routePhysical_outside hram hrom hiop, peripheralAt_eq_none hnone]
    rfl

end Sys2Proof.Machine
end

section
/-! PROOFS. Address errors (`20_memory.md` R56, `42_load_store.md` R140): what taking an exception leaves, whatever its
code, then that every aligned load and store takes the address error first. -/

namespace Sys2Proof.Machine

open Sys2Proof.Claims

/-! ### What taking an exception writes to `Cause` -/

theorem getLsbD_setCauseBD_self (bd : Bool) (w : Word) : (setCauseBD bd w).getLsbD 31 = bd := by
  cases bd <;> simp [setCauseBD]

theorem excCode_setCauseExcCode (code : BitVec 5) (w : Word) : (setCauseExcCode code w).extractLsb' 2 5 = code := by
  apply BitVec.eq_of_getLsbD_eq
  intro i hi
  have hmask : (0x0000007C#32).getLsbD (2 + i) = true := by interval_cases i <;> rfl
  have hcode : (code.setWidth 32 <<< 2).getLsbD (2 + i) = code.getLsbD i := by
    rw [BitVec.getLsbD_shiftLeft, BitVec.getLsbD_setWidth, Nat.add_sub_cancel_left]
    simp [show 2 + i < 32 by omega, show i < 32 by omega, show ¬ 2 + i < 2 by omega]
  rw [BitVec.getLsbD_extractLsb', setCauseExcCode, BitVec.getLsbD_or, BitVec.getLsbD_and, BitVec.getLsbD_not, hmask,
    hcode]
  simp [hi]

theorem excCode_setCauseBD (bd : Bool) (w : Word) : (setCauseBD bd w).extractLsb' 2 5 = w.extractLsb' 2 5 := by
  apply BitVec.eq_of_getLsbD_eq
  intro i hi
  rw [BitVec.getLsbD_extractLsb', BitVec.getLsbD_extractLsb', getLsbD_setCauseBD _ _ (by omega)]

/-! ### Taking an exception (`60_exceptions.md` R300 to R303, R310) -/

/-- `BD` is written only when `EXL` was clear (R310). -/
theorem State.cause_takeException (s : State) (code : ExcCode) :
    (s.takeException code).cause =
      if statusEXL s.status then setCauseExcCode (excNumber code) s.cause
      else setCauseBD s.isBranching (setCauseExcCode (excNumber code) s.cause) := by
  rw [State.cause_eq]
  split
  · next h => rw [State.slot_takeException_nested h]; rfl
  · next h => rw [State.slot_takeException (Bool.not_eq_true _ ▸ h)]; rfl

/-- `EPC` is written only when `EXL` was clear, and names the branch for an instruction in a delay slot. -/
theorem State.epc_takeException (s : State) (code : ExcCode) :
    (s.takeException code).epc =
      if statusEXL s.status then s.epc else if s.isBranching then s.pc - 4#32 else s.pc := by
  rw [State.epc_eq]
  split
  · next h => rw [State.slot_takeException_nested h]; rfl
  · next h => rw [State.slot_takeException (Bool.not_eq_true _ ▸ h)]; rfl

/-- `EXL` is set, and stays set where it was. -/
theorem State.status_takeException (s : State) (code : ExcCode) :
    (s.takeException code).status = setStatusEXL s.status := by
  rw [State.status_eq]
  cases h : statusEXL s.status
  · rw [State.slot_takeException h]; rfl
  · rw [State.slot_takeException_nested h, if_neg (by decide), ← State.status_eq]
    apply BitVec.eq_of_getLsbD_eq
    intro b _
    rw [getLsbD_setStatusEXL]
    by_cases hb : b = 1
    · subst hb
      rw [show s.status.getLsbD 1 = true from h]
      rfl
    · simp [hb]

/-- The whole of an exception entry, for every code, in every state. -/
theorem entersException_takeException (s : State) (code : ExcCode) :
    EntersException s (s.takeException code) (excNumber code) (vectorOffset code) where
  pc := State.takeException_pc s code
  excCode := by
    rw [State.cause_takeException]
    split
    · exact excCode_setCauseExcCode _ _
    · rw [excCode_setCauseBD, excCode_setCauseExcCode]
  branchDelay := by
    rw [State.cause_takeException]
    show _ = if statusEXL s.status then _ else _
    split
    · exact getLsbD_setCauseExcCode _ _ (by decide)
    · exact getLsbD_setCauseBD_self _ _
  otherCause b hb := (exceptionFrame_takeException s code).cause b (by omega) (by omega)
  epc := State.epc_takeException s code
  level := State.status_takeException s code
  otherSlots n hn := State.slot_takeException_other s code (by simp_all)
  normal := ⟨rfl, rfl, State.takeException_branchPc s code⟩
  registers := State.reg_takeException s code
  pairs := by simp [SamePairs]
  memory a := by rw [State.takeException_mem]
  latches := by simp [SameLatches]

/-! ### The address error -/

/-- The state an address error takes its exception in: `BadVAddr` is open (R306). -/
def State.withBadVAddr (s : State) (ea : VAddr) : State :=
  { s.setSlot slotBadVAddr (Config.badVAddr s.freeIndex ea (s.slot slotBadVAddr)) with freeIndex := s.freeIndex + 1 }

theorem State.addressError_eq (s : State) (code : ExcCode) (ea : VAddr) :
    s.addressError code ea = .next ((s.withBadVAddr ea).takeException code) := rfl

theorem State.slot_withBadVAddr (s : State) (ea : VAddr) {n : Reg} (h : n ≠ 8#5) :
    (s.withBadVAddr ea).slot n = s.slot n := State.slot_setSlot_of_ne s _ h

/-- An exception entry does not read `BadVAddr`, and says nothing of it. -/
theorem entersException_withBadVAddr {s t : State} {ea : VAddr} {code : BitVec 5} {offset : VAddr}
    (h : EntersException (s.withBadVAddr ea) t code offset) : EntersException s t code offset := by
  have hstatus : (s.withBadVAddr ea).status = s.status := s.slot_withBadVAddr ea (by decide)
  have hcause : (s.withBadVAddr ea).cause = s.cause := s.slot_withBadVAddr ea (by decide)
  have hepc : (s.withBadVAddr ea).epc = s.epc := s.slot_withBadVAddr ea (by decide)
  exact {
    pc := hstatus ▸ h.pc
    excCode := h.excCode
    branchDelay := hstatus ▸ hcause ▸ h.branchDelay
    otherCause := hcause ▸ h.otherCause
    epc := hstatus ▸ hepc ▸ h.epc
    level := hstatus ▸ h.level
    otherSlots := fun n hn => (h.otherSlots n hn).trans (s.slot_withBadVAddr ea (by simp_all))
    normal := h.normal
    registers := h.registers
    pairs := h.pairs
    memory := h.memory
    latches := h.latches }

theorem addressError_enters (s : State) (code : ExcCode) (ea : VAddr) :
    ∃ t, s.addressError code ea = .next t ∧ EntersException s t (excNumber code) (vectorOffset code) ∧
      t.events = s.events :=
  ⟨_, s.addressError_eq code ea, entersException_withBadVAddr (entersException_takeException _ code),
    State.takeException_events _ code⟩

theorem State.alignedLoad_misaligned (s : State) {w : Width} {base : Reg} {offset : BitVec 16}
    (write : State → QWord → State) (h : aligned w (s.effectiveAddress base offset) = false) :
    s.alignedLoad w base offset write = s.addressError .adEL (s.effectiveAddress base offset) := by
  simp [State.alignedLoad, h]

theorem State.alignedStore_misaligned (s : State) {w : Width} {base : Reg} {offset : BitVec 16} (v : QWord)
    (h : aligned w (s.effectiveAddress base offset) = false) :
    s.alignedStore w base offset v = s.addressError .adES (s.effectiveAddress base offset) := by
  simp [State.alignedStore, h]

/-! ### The instructions that check (R56) -/

/-- The row's words decode to its instruction, which raises `code` before anything else at an address that is not a
multiple of `width`. -/
structure ChecksAlignment (row : AlignmentRow) (width : Width) (code : ExcCode) : Prop where
  bytes : row.bytes = widthBytes width
  number : row.code = excNumber code
  vector : vectorOffset code = 0x180#32
  opcode : row.op ≠ 0#6
  decodes : ∀ w, opField w = row.op → decodePrimary w = .ok (accessInstr row.instr w)
  raises : ∀ rt base offset s, aligned width (s.effectiveAddress base offset) = false →
    exec (row.instr rt base offset) s = s.addressError code (s.effectiveAddress base offset)

section
variable {instr : Reg → Reg → BitVec 16 → Instr} {op : BitVec 6}

theorem checksAlignment_load (width : Width) (write : Reg → State → QWord → State) (hop : op ≠ 0#6)
    (hdecode : ∀ w, opField w = op → decodePrimary w = .ok (accessInstr instr w))
    (hexec : ∀ rt base offset s, exec (instr rt base offset) s = s.alignedLoad width base offset (write rt)) :
    ChecksAlignment ⟨instr, op, widthBytes width, 4#5⟩ width .adEL :=
  ⟨rfl, rfl, rfl, hop, hdecode, fun rt base offset s h =>
    (hexec rt base offset s).trans (s.alignedLoad_misaligned (write rt) h)⟩

theorem checksAlignment_store (width : Width) (hop : op ≠ 0#6)
    (hdecode : ∀ w, opField w = op → decodePrimary w = .ok (accessInstr instr w))
    (hexec : ∀ rt base offset s, exec (instr rt base offset) s = s.alignedStore width base offset (s.reg rt)) :
    ChecksAlignment ⟨instr, op, widthBytes width, 5#5⟩ width .adES :=
  ⟨rfl, rfl, rfl, hop, hdecode, fun rt base offset s h =>
    (hexec rt base offset s).trans (s.alignedStore_misaligned (s.reg rt) h)⟩

end

theorem alignmentRows_check : ∀ row ∈ alignmentRows, ∃ width code, ChecksAlignment row width code := by
  unfold alignmentRows
  simp only [List.forall_mem_cons]
  refine ⟨⟨_, _, checksAlignment_load .half (fun rt t v => t.setLow rt ((v.setWidth 16).signExtend 64))
      (by decide) ?_ fun _ _ _ _ => rfl⟩,
    ⟨_, _, checksAlignment_load .half (fun rt t v => t.setLow rt ((v.setWidth 16).setWidth 64))
      (by decide) ?_ fun _ _ _ _ => rfl⟩,
    ⟨_, _, checksAlignment_load .word (fun rt t v => t.setWord rt (v.setWidth 32))
      (by decide) ?_ fun _ _ _ _ => rfl⟩,
    ⟨_, _, checksAlignment_load .word (fun rt t v => t.setLow rt (zextWord (v.setWidth 32)))
      (by decide) ?_ fun _ _ _ _ => rfl⟩,
    ⟨_, _, checksAlignment_load .double (fun rt t v => t.setLow rt (v.setWidth 64))
      (by decide) ?_ fun _ _ _ _ => rfl⟩,
    ⟨_, _, checksAlignment_load .quad (fun rt t v => t.setReg rt v) (by decide) ?_ fun _ _ _ _ => rfl⟩,
    ⟨_, _, checksAlignment_store .half (by decide) ?_ fun _ _ _ _ => rfl⟩,
    ⟨_, _, checksAlignment_store .word (by decide) ?_ fun _ _ _ _ => rfl⟩,
    ⟨_, _, checksAlignment_store .double (by decide) ?_ fun _ _ _ _ => rfl⟩,
    ⟨_, _, checksAlignment_store .quad (by decide) ?_ fun _ _ _ _ => rfl⟩,
    by simp⟩ <;>
  · intro w hw
    simp [decodePrimary, hw, accessInstr]

/-- The address of the statement is the one the instruction computes (R140). -/
theorem effectiveAddress_fields (s : State) (w : Word) :
    s.effectiveAddress (rsField w) (immField w) = accessAddress s w := rfl

theorem aligned_eq_false {w : Width} {ea : VAddr} (h : ea.toNat % widthBytes w ≠ 0) : aligned w ea = false :=
  Bool.eq_false_iff.2 fun ha => h ((aligned_iff w ea).1 ha)

/-- Settles O34: each row's instruction checks its address first, and the address error is an exception entry. -/
theorem addressErrors : Obligations.AddressErrors := by
  intro row hrow w s hop hmis
  obtain ⟨width, code, hc⟩ := alignmentRows_check row hrow
  rw [hc.bytes] at hmis
  refine ⟨(decode_of_opField (hop ▸ hc.opcode)).trans (hc.decodes w hop), ?_⟩
  rw [accessInstr, hc.raises _ _ _ _ (aligned_eq_false hmis), hc.number, ← hc.vector]
  exact addressError_enters s code _

end Sys2Proof.Machine
end

section
/-! PROOFS. Words and instructions (`30_encoding.md` R70 to R84). A word is the fields of its format joined, so that
clearing ignored bits is an encoding of the remaining fields. Each map of the decoder then has two rules: encoding what
it answers clears the ignored bits, and what it answers turns on the selecting fields only. The first gives the frame
of the ignored bits and the row of a decoded word, the second the mnemonic of a word of a row. -/

namespace Sys2Proof

open Sys2Proof.Machine Sys2Proof.Claims
open Sys2Proof.Laws.TableRow (rType_and iType_and all5 all6 rowMask rowBits)

/-! ### A word as the fields of a format (R71, R72) -/

theorem slice_join {n : Nat} (x : BitVec n) {b c k : Nat} (l : Nat) (h : c = b + k) :
    x.extractLsb' c l ++ x.extractLsb' b k = x.extractLsb' b (l + k) :=
  BitVec.extractLsb'_append_extractLsb'_eq_extractLsb' h

theorem rType_fields (w : Word) :
    rType (opField w) (rsField w) (rtField w) (rdField w) (saField w) (functField w) = w := by
  unfold rType opField rsField rtField rdField saField functField
  rw [slice_join w 6 (show 26 = 21 + 5 from rfl), slice_join w _ (show 21 = 16 + 5 from rfl),
    slice_join w _ (show 16 = 11 + 5 from rfl), slice_join w _ (show 11 = 6 + 5 from rfl),
    slice_join w _ (show 6 = 0 + 6 from rfl)]
  exact slice_all w

theorem iType_fields (w : Word) : iType (opField w) (rsField w) (rtField w) (immField w) = w := by
  unfold iType opField rsField rtField immField
  rw [slice_join w 6 (show 26 = 21 + 5 from rfl), slice_join w _ (show 21 = 16 + 5 from rfl),
    slice_join w _ (show 16 = 0 + 16 from rfl)]
  exact slice_all w

theorem jType_fields (w : Word) : jType (opField w) (indexField w) = w := by
  unfold jType opField indexField
  rw [slice_join w 6 (show 26 = 0 + 26 from rfl)]
  exact slice_all w

theorem codeType_fields {w : Word} (hop : opField w = 0x00#6) : codeType (codeField w) (functField w) = w := by
  unfold codeType
  rw [← hop]
  unfold opField codeField functField
  rw [slice_join w 6 (show 26 = 6 + 20 from rfl), slice_join w _ (show 6 = 0 + 6 from rfl)]
  exact slice_all w

/-! ### The fields of a format with the ignored ones cleared (R83) -/

theorem all16 (x : BitVec 16) : x &&& 0xFFFF#16 = x := by
  rw [show (0xFFFF#16) = BitVec.allOnes 16 by decide, BitVec.and_allOnes]

section
variable (w : Word)

theorem and_rType (op : BitVec 6) (rs rt rd sa : BitVec 5) (funct : BitVec 6) :
    w &&& rType op rs rt rd sa funct =
      rType (opField w &&& op) (rsField w &&& rs) (rtField w &&& rt) (rdField w &&& rd) (saField w &&& sa)
        (functField w &&& funct) := by
  rw [← rType_and, rType_fields]

theorem and_iType (op : BitVec 6) (rs rt : BitVec 5) (imm : BitVec 16) :
    w &&& iType op rs rt imm = iType (opField w &&& op) (rsField w &&& rs) (rtField w &&& rt) (immField w &&& imm) := by
  rw [← iType_and, iType_fields]

theorem clear_none : w &&& ~~~ 0#32 = w := by
  rw [show ~~~ 0#32 = BitVec.allOnes 32 by decide, BitVec.and_allOnes]

theorem clear_rs : w &&& ~~~ 0x03E00000#32 =
    rType (opField w) 0#5 (rtField w) (rdField w) (saField w) (functField w) := by
  rw [show ~~~ 0x03E00000#32 = rType 0x3F#6 0#5 0x1F#5 0x1F#5 0x1F#5 0x3F#6 by decide, and_rType]
  simp only [all5, all6, BitVec.and_zero]

theorem clear_sa : w &&& ~~~ 0x000007C0#32 =
    rType (opField w) (rsField w) (rtField w) (rdField w) 0#5 (functField w) := by
  rw [show ~~~ 0x000007C0#32 = rType 0x3F#6 0x1F#5 0x1F#5 0x1F#5 0#5 0x3F#6 by decide, and_rType]
  simp only [all5, all6, BitVec.and_zero]

theorem clear_rt_rd_sa : w &&& ~~~ 0x001FFFC0#32 =
    rType (opField w) (rsField w) 0#5 0#5 0#5 (functField w) := by
  rw [show ~~~ 0x001FFFC0#32 = rType 0x3F#6 0x1F#5 0#5 0#5 0#5 0x3F#6 by decide, and_rType]
  simp only [all5, all6, BitVec.and_zero]

theorem clear_rt_sa : w &&& ~~~ 0x001F07C0#32 =
    rType (opField w) (rsField w) 0#5 (rdField w) 0#5 (functField w) := by
  rw [show ~~~ 0x001F07C0#32 = rType 0x3F#6 0x1F#5 0#5 0x1F#5 0#5 0x3F#6 by decide, and_rType]
  simp only [all5, all6, BitVec.and_zero]

theorem clear_rs_rt_sa : w &&& ~~~ 0x03FF07C0#32 =
    rType (opField w) 0#5 0#5 (rdField w) 0#5 (functField w) := by
  rw [show ~~~ 0x03FF07C0#32 = rType 0x3F#6 0#5 0#5 0x1F#5 0#5 0x3F#6 by decide, and_rType]
  simp only [all5, all6, BitVec.and_zero]

theorem clear_rd_sa : w &&& ~~~ 0x0000FFC0#32 =
    rType (opField w) (rsField w) (rtField w) 0#5 0#5 (functField w) := by
  rw [show ~~~ 0x0000FFC0#32 = rType 0x3F#6 0x1F#5 0x1F#5 0#5 0#5 0x3F#6 by decide, and_rType]
  simp only [all5, all6, BitVec.and_zero]

theorem clear_rs_rt_rd : w &&& ~~~ 0x03FFF800#32 =
    rType (opField w) 0#5 0#5 0#5 (saField w) (functField w) := by
  rw [show ~~~ 0x03FFF800#32 = rType 0x3F#6 0#5 0#5 0#5 0x1F#5 0x3F#6 by decide, and_rType]
  simp only [all5, all6, BitVec.and_zero]

theorem clear_sa_funct : w &&& ~~~ 0x000007FF#32 =
    rType (opField w) (rsField w) (rtField w) (rdField w) 0#5 0#6 := by
  rw [show ~~~ 0x000007FF#32 = rType 0x3F#6 0x1F#5 0x1F#5 0x1F#5 0#5 0#6 by decide, and_rType]
  simp only [all5, all6, BitVec.and_zero]

/-- The same bits as in `clear_rs`, for `LUI`, which is I-type. -/
theorem clear_rs_immediate : w &&& ~~~ 0x03E00000#32 = iType (opField w) 0#5 (rtField w) (immField w) := by
  rw [show ~~~ 0x03E00000#32 = iType 0x3F#6 0#5 0x1F#5 0xFFFF#16 by decide, and_iType]
  simp only [all5, all6, all16, BitVec.and_zero]

theorem clear_rt_immediate : w &&& ~~~ 0x001F0000#32 = iType (opField w) (rsField w) 0#5 (immField w) := by
  rw [show ~~~ 0x001F0000#32 = iType 0x3F#6 0x1F#5 0#5 0xFFFF#16 by decide, and_iType]
  simp only [all5, all6, all16, BitVec.and_zero]

end

/-! ### Encoding what a map answers clears the ignored bits -/

section
variable {w : Word}

/-- The word with the bits cleared that its instruction ignores. -/
def clearIgnored (w : Word) (i : Instr) : Word := w &&& ~~~ ignoredBits i

theorem codeType_of_fields {funct : BitVec 6} (hop : opField w = 0x00#6) (hf : functField w = funct) :
    codeType (codeField w) funct = w := hf ▸ codeType_fields hop

theorem iType_of_fields {op : BitVec 6} {rt : Reg} (hop : opField w = op) (hrt : rtField w = rt) :
    iType op (rsField w) rt (immField w) = w := hop ▸ hrt ▸ iType_fields w

theorem jType_of_fields {op : BitVec 6} (hop : opField w = op) : jType op (indexField w) = w := hop ▸ jType_fields w

/-- In each arm the instruction's word is its selecting fields and its operands joined: what clearing leaves. -/
theorem encode_decodeSpecial (hop : opField w = 0x00#6) :
    encode <$> decodeSpecial w = clearIgnored w <$> decodeSpecial w := by
  unfold decodeSpecial
  split <;> rename_i hf <;>
    simp only [Except.map_ok, Except.map_error, encode, clearIgnored, ignoredBits.eq_def, clear_none, clear_rs,
      clear_sa, clear_rt_rd_sa, clear_rt_sa, clear_rs_rt_sa, clear_rd_sa, clear_rs_rt_rd, codeType_of_fields, hop, hf]

theorem encode_decodeRegimm (hop : opField w = 0x01#6) :
    encode <$> decodeRegimm w = clearIgnored w <$> decodeRegimm w := by
  unfold decodeRegimm
  split <;> rename_i hrt <;>
    simp only [Except.map_ok, Except.map_error, encode, clearIgnored, ignoredBits.eq_def, clear_none, iType_of_fields,
      hop, hrt]

theorem encode_decodeCop0Co (hop : opField w = 0x10#6) (hrs : rsField w = 0x10#5) :
    encode <$> decodeCop0Co w = clearIgnored w <$> decodeCop0Co w := by
  unfold decodeCop0Co
  split <;> rename_i hf <;>
    simp only [Except.map_ok, Except.map_error, encode, clearIgnored, ignoredBits.eq_def, clear_rt_rd_sa, hop, hrs,
      hf]

theorem encode_decodeCop0 (hop : opField w = 0x10#6) :
    encode <$> decodeCop0 w = clearIgnored w <$> decodeCop0 w := by
  unfold decodeCop0
  split <;> rename_i hrs <;>
    simp only [Except.map_ok, Except.map_error, encode, clearIgnored, ignoredBits.eq_def, clear_sa_funct,
      encode_decodeCop0Co, hop, hrs]

theorem encode_decodeMmi (hop : opField w = 0x1C#6) :
    encode <$> decodeMmi w = clearIgnored w <$> decodeMmi w := by
  unfold decodeMmi
  split <;> rename_i hf <;>
    simp only [Except.map_ok, Except.map_error, encode, clearIgnored, ignoredBits.eq_def, clear_sa, clear_rt_rd_sa,
      clear_rs_rt_sa, clear_rd_sa, hop, hf]

/-- The rules of the other maps, and the instructions of the primary map itself. -/
theorem encode_decodePrimary (w : Word) :
    encode <$> decodePrimary w = clearIgnored w <$> decodePrimary w := by
  unfold decodePrimary
  split <;> rename_i hop <;>
    simp only [Except.map_ok, Except.map_error, encode, clearIgnored, ignoredBits.eq_def, clear_none,
      clear_rs_immediate, clear_rt_immediate, iType_of_fields, jType_of_fields, encode_decodeSpecial,
      encode_decodeRegimm, encode_decodeCop0, encode_decodeMmi, hop]

theorem encode_of_decode {i : Instr} (h : decode w = .ok i) : encode i = w &&& ~~~ ignoredBits i := by
  by_cases hw : w = 0#32
  · subst hw
    obtain rfl := Except.ok.inj h
    rfl
  · rw [decode_of_ne_zero hw] at h
    have hmap := encode_decodePrimary w
    rw [h] at hmap
    exact Except.ok.inj hmap

end

/-! ### Decoding what an instruction encodes to (R70 to R82) -/

/-- In SPECIAL the `funct` of an encoded word selects the arm of its instruction, and the other fields give back the
operands. `NOP` has no arm in the maps: its word is taken before them (R82). -/
theorem decodeSpecial_encode {i : Instr} (hnop : i ≠ .nop) (hop : opField (encode i) = 0x00#6) :
    decodeSpecial (encode i) = .ok i := by
  cases i with
  | nop => exact absurd rfl hnop
  | _ => simp [encode, decodeSpecial] at hop ⊢

theorem decodePrimary_encode {i : Instr} (hnop : i ≠ .nop) : decodePrimary (encode i) = .ok i := by
  by_cases hop : opField (encode i) = 0x00#6
  · simp only [decodePrimary, hop, decodeSpecial_encode hnop hop]
  · cases i with
    | nop => exact absurd rfl hnop
    | _ => simp [encode, decodePrimary, decodeRegimm, decodeCop0, decodeCop0Co, decodeMmi] at hop ⊢

/-- The one ill-formed term. -/
theorem eq_sll_of_not_wf {i : Instr} (h : ¬ i.wf = true) : i = .sll 0 0 0 := by
  cases i with
  | sll rd rt sa =>
    simp only [Instr.wf, Bool.not_eq_true', Bool.not_eq_false, Bool.and_eq_true, beq_iff_eq] at h
    obtain ⟨⟨rfl, rfl⟩, rfl⟩ := h
    rfl
  | _ => exact absurd rfl h

/-- The maps answer the ill-formed term to the all-zero word, so no other instruction but `NOP` encodes to it. -/
theorem encode_ne_zero {i : Instr} (hnop : i ≠ .nop) (hwf : i.wf = true) : encode i ≠ 0#32 := by
  intro h
  have hi := decodePrimary_encode hnop
  rw [h] at hi
  obtain rfl := Except.ok.inj hi
  exact absurd hwf (by decide)

/-- Settles O2: past the all-zero word, which only `NOP` has, decoding is the maps. -/
theorem decodeEncodeRoundTrip : Obligations.DecodeEncodeRoundTrip := by
  intro i hwf
  by_cases hnop : i = .nop
  · subst hnop
    rfl
  · rw [decode_of_ne_zero (encode_ne_zero hnop hwf), decodePrimary_encode hnop]

/-! ### Ignored bits (R83, R84) -/

/-- `SLL $0, $0, 0` discards its result, so it executes as `NOP`. -/
theorem exec_nop_eq_sll (s : State) : exec .nop s = exec (.sll 0 0 0) s := rfl

/-- Settles O4: the encoder's word is the cleared word by the maps' rule, and decodes by the round trip; but for the
ill-formed term, whose word is `NOP`. -/
theorem ignoredBitsDoNotMatter : Obligations.IgnoredBitsDoNotMatter := by
  intro w i h
  refine ⟨encode_of_decode h, ?_⟩
  by_cases hwf : i.wf = true
  · exact ⟨i, decodeEncodeRoundTrip i hwf, fun s => rfl⟩
  · obtain rfl := eq_sll_of_not_wf hwf
    exact ⟨.nop, rfl, exec_nop_eq_sll⟩

/-! ### The row of a decoded word (R76) -/

namespace Laws.TableRow

/-- The family of `Laws/PerInstr.lean` as one statement. -/
theorem encode_in_row (i : Instr) : encode i &&& rowMask i = rowBits i := by
  cases i
  exacts [j _, jal _, jr _, jalr _ _, beq _ _ _, bne _ _ _, blez _ _, bgtz _ _, bltz _ _, bgez _ _, beql _ _ _,
    bnel _ _ _, blezl _ _, bgtzl _ _, bltzl _ _, bgezl _ _, bltzal _ _, bgezal _ _, bltzall _ _, bgezall _ _,
    lb _ _ _, lbu _ _ _, lh _ _ _, lhu _ _ _, lw _ _ _, lwu _ _ _, ld _ _ _, lq _ _ _, sb _ _ _, sh _ _ _, sw _ _ _,
    sd _ _ _, sq _ _ _, lwl _ _ _, lwr _ _ _, ldl _ _ _, ldr _ _ _, swl _ _ _, swr _ _ _, sdl _ _ _, sdr _ _ _,
    add _ _ _, addu _ _ _, sub _ _ _, subu _ _ _, addi _ _ _, addiu _ _ _, dadd _ _ _, daddu _ _ _, dsub _ _ _,
    dsubu _ _ _, daddi _ _ _, daddiu _ _ _, and _ _ _, or _ _ _, xor _ _ _, nor _ _ _, andi _ _ _, ori _ _ _,
    xori _ _ _, lui _ _, slt _ _ _, sltu _ _ _, slti _ _ _, sltiu _ _ _, sll _ _ _, srl _ _ _, sra _ _ _, sllv _ _ _,
    srlv _ _ _, srav _ _ _, dsll _ _ _, dsrl _ _ _, dsra _ _ _, dsll32 _ _ _, dsrl32 _ _ _, dsra32 _ _ _, dsllv _ _ _,
    dsrlv _ _ _, dsrav _ _ _, mult _ _ _, multu _ _ _, mult1 _ _ _, multu1 _ _ _, div _ _, divu _ _, div1 _ _,
    divu1 _ _, mfhi _, mflo _, mthi _, mtlo _, mfhi1 _, mflo1 _, mthi1 _, mtlo1 _, movz _ _ _, movn _ _ _, nop,
    syscall _, breakpoint _, mfc0 _ _, mtc0 _ _, eret, ei, di, sync _, cache _ _ _, pref _ _ _, tlbr, tlbwi, tlbwr,
    tlbp]

end Laws.TableRow

/-- No bit that selects the row is ignored. -/
theorem ignoredBits_and_rowMask (i : Instr) : ~~~ ignoredBits i &&& rowMask i = rowMask i := by
  cases i <;> simp [ignoredBits.eq_def, rowMask]

theorem row_of_decode {w : Word} {i : Instr} (h : decode w = .ok i) : w &&& rowMask i = rowBits i := by
  rw [← Laws.TableRow.encode_in_row, encode_of_decode h, BitVec.and_assoc, ignoredBits_and_rowMask]

theorem row_mem (i : Instr) : ⟨mnemonic i, rowMask i, rowBits i⟩ ∈ opcodeRows := by
  cases i <;> exact List.mem_of_elem_eq_true rfl

theorem rowOf_ne_none {w : Word} {i : Instr} (h : decode w = .ok i) : rowOf w ≠ none := by
  intro hnone
  exact List.find?_eq_none.1 hnone _ (row_mem i) (by simpa using row_of_decode h)

/-! ### The mnemonic of a word of a row (R74 to R81) -/

/-- The bits of a word that its path through the maps looks at. -/
def selectMask (w : Word) : Word :=
  match opField w with
  | 0x00#6 | 0x1C#6 => 0xFC00003F#32
  | 0x01#6 => 0xFC1F0000#32
  | 0x10#6 => if rsField w = 0x10#5 then 0xFFE0003F#32 else 0xFFE00000#32
  | _ => 0xFC000000#32

section
variable {w v m : Word}

/-- Words that agree under a mask agree on a field the mask keeps whole. -/
theorem slice_congr {b k : Nat} (h : w &&& m = v &&& m) (hm : m.extractLsb' b k = BitVec.allOnes k) :
    w.extractLsb' b k = v.extractLsb' b k := by
  have hslice := congrArg (BitVec.extractLsb' b k) h
  rwa [BitVec.extractLsb'_and, BitVec.extractLsb'_and, hm, BitVec.and_allOnes, BitVec.and_allOnes] at hslice

theorem decodeSpecial_congr (hf : functField w = functField v) :
    mnemonic <$> decodeSpecial w = mnemonic <$> decodeSpecial v := by
  unfold decodeSpecial
  rw [hf]
  split <;> rfl

theorem decodeRegimm_congr (hrt : rtField w = rtField v) :
    mnemonic <$> decodeRegimm w = mnemonic <$> decodeRegimm v := by
  unfold decodeRegimm
  rw [hrt]
  split <;> rfl

theorem decodeCop0Co_congr (hf : functField w = functField v) :
    mnemonic <$> decodeCop0Co w = mnemonic <$> decodeCop0Co v := by
  unfold decodeCop0Co
  rw [hf]

theorem decodeCop0_congr (hrs : rsField w = rsField v) (hf : rsField v = 0x10#5 → functField w = functField v) :
    mnemonic <$> decodeCop0 w = mnemonic <$> decodeCop0 v := by
  unfold decodeCop0
  rw [hrs]
  split
  · rfl
  · rfl
  · next h => exact decodeCop0Co_congr (hf h)
  · rfl

theorem decodeMmi_congr (hf : functField w = functField v) :
    mnemonic <$> decodeMmi w = mnemonic <$> decodeMmi v := by
  unfold decodeMmi
  rw [hf]
  split <;> rfl

theorem selectMask_special (hop : opField v = 0x00#6) : selectMask v = 0xFC00003F#32 := by simp [selectMask, hop]
theorem selectMask_regimm (hop : opField v = 0x01#6) : selectMask v = 0xFC1F0000#32 := by simp [selectMask, hop]
theorem selectMask_mmi (hop : opField v = 0x1C#6) : selectMask v = 0xFC00003F#32 := by simp [selectMask, hop]
theorem selectMask_cop0 (hop : opField v = 0x10#6) :
    selectMask v = if rsField v = 0x10#5 then 0xFFE0003F#32 else 0xFFE00000#32 := by simp [selectMask, hop]

theorem opField_selectMask (v : Word) : opField (selectMask v) = BitVec.allOnes 6 := by
  unfold selectMask
  split
  · rfl
  · rfl
  · rfl
  · split <;> rfl
  · rfl

/-- Words that agree on the selecting bits decode to the same mnemonic, or both to an error. -/
theorem decodePrimary_congr (h : w &&& selectMask v = v &&& selectMask v) :
    mnemonic <$> decodePrimary w = mnemonic <$> decodePrimary v := by
  have hop : opField w = opField v := slice_congr h (opField_selectMask v)
  unfold decodePrimary
  rw [hop]
  split
  any_goals rfl -- the instructions of the primary map, and its reserved cells
  · next hv => exact decodeSpecial_congr (slice_congr h (by rw [selectMask_special hv]; decide))
  · next hv => exact decodeRegimm_congr (slice_congr h (by rw [selectMask_regimm hv]; decide))
  · next hv =>
    refine decodeCop0_congr (slice_congr h ?_) fun hrs => slice_congr h ?_ <;> rw [selectMask_cop0 hv]
    · split <;> decide
    · rw [if_pos hrs]
      decide
  · next hv => exact decodeMmi_congr (slice_congr h (by rw [selectMask_mmi hv]; decide))

end

/-- Every row but `NOP` has the mask of its own bits' path. -/
theorem rows_mask : ∀ r ∈ opcodeRows.tail, r.mask = selectMask r.bits ∧ r.bits &&& r.mask = r.bits := by
  decide

/-- The bits of every row but `NOP` decode by the maps to its mnemonic. -/
theorem rows_mnemonic : ∀ r ∈ opcodeRows.tail, mnemonic <$> decodePrimary r.bits = .ok r.name := by
  decide

theorem mnemonic_of_row {w : Word} (hw : w ≠ 0#32) {r : OpcodeRow} (h : rowOf w = some r) :
    mnemonic <$> decode w = .ok r.name := by
  have hsel : w &&& r.mask = r.bits := by simpa using List.find?_some h
  obtain rfl | hr := List.mem_cons.1 (List.mem_of_find?_eq_some h)
  · exact absurd ((clear_none w).symm.trans hsel) hw
  · obtain ⟨hmask, hbits⟩ := rows_mask r hr
    rw [decode_of_ne_zero hw, ← rows_mnemonic r hr]
    apply decodePrimary_congr
    rw [← hmask, hsel, hbits]

/-- Settles O3: the mnemonic of a word of a row by the selecting bits; a word that decodes lies in the row of its
instruction. -/
theorem decodeAgreesWithOpcodeTable : Obligations.DecodeAgreesWithOpcodeTable := by
  intro w
  constructor
  · intro r h
    by_cases hw : w = 0#32
    · subst hw
      obtain rfl := Option.some.inj h
      exact ⟨.nop, rfl, rfl⟩
    · have hm := mnemonic_of_row hw h
      cases hd : decode w with
      | ok i => exact ⟨i, rfl, Except.ok.inj (hd ▸ hm)⟩
      | error e => rw [hd] at hm; cases hm
  · intro h
    cases hd : decode w with
    | ok i => exact absurd h (rowOf_ne_none hd)
    | error e => exact ⟨e, rfl⟩

/-! ### Decode failures (R80) -/

/-- Settles O14: the report is the one effect, and outcome Next moves `pc`. -/
theorem decodeFailureIsReportedNoOp : Obligations.DecodeFailureIsReportedNoOp := by
  intro w e s h
  exact ⟨_, executeWord_error h s, nextPc_advance ⟨rfl, rfl, rfl, rfl⟩, State.advance_events _,
    State.advance_freeIndex _, sameGpr_advance fun _ => rfl, samePairs_advance ⟨rfl, rfl, rfl, rfl⟩,
    sameSlots_advance fun _ => rfl, sameMem_advance fun _ => rfl, sameLatches_advance ⟨rfl, rfl, rfl⟩⟩

end Sys2Proof
end

section
/-! PROOFS. The step driver around an instruction (`40_step_driver.md` R91 to R93, R103): the fetch is a bus read, the
bookkeeping is a tick and an interrupt or none, and a step joins them to the execution of the fetched word. -/

namespace Sys2Proof.Machine

open Sys2Proof.Claims

/-! ### The fetch (R91) -/

/-- What a read answers fits its width (R41). -/
theorem State.toNat_memRead_lt (s : State) (w : Width) (va : VAddr) :
    (s.memRead w va).1.toNat < 2 ^ (8 * widthBytes w) := by
  have hread := s.readsBus_memRead w va
  cases hroute : route va with
  | array r o =>
    rw [(hread.array r o hroute).1, ← toNat_readLE _ _ _ (widthBytes_le w)]
    exact Memory.toNat_readLE_lt _ _ _ (widthBytes_le w)
  | busError p =>
    rw [(hread.noTarget p hroute).1]
    exact Nat.two_pow_pos _
  | peripheral k p =>
    by_cases hw : w = .quad
    · subst hw
      exact (s.memRead .quad va).1.isLt
    · obtain ⟨_, -, hlt, -⟩ := hread.peripheral k p hroute hw
      exact hlt

theorem toNat_fetch (s : State) : s.fetch.1.toNat = (s.memRead .word s.pc).1.toNat :=
  (BitVec.toNat_setWidth _ _).trans (Nat.mod_eq_of_lt (s.toNat_memRead_lt .word s.pc))

/-- After its read the fetch sets only the latches and draws a free value, and a bus read is not about these. -/
theorem readsBus_fetch (s : State) : ReadsBus s s.fetch.2 .word 4 s.pc s.fetch.1.toNat := by
  rw [toNat_fetch]
  obtain ⟨harray, hnone, hperipheral, hquad⟩ := s.readsBus_memRead .word s.pc
  exact ⟨harray, hnone, hperipheral, hquad⟩

/-- Settles O11: a bus read at `pc`, and the frame of the fetch. -/
theorem fetchReadsTheWordAtPc : Obligations.FetchReadsTheWordAtPc := fun s =>
  have frame := fetch_frame s
  ⟨readsBus_fetch s, rfl, frame.pcs, reg_fetch s, frame.pairs, frame.slots, fun a => by rw [fetch_mem],
    frame.resetDone⟩

/-! ### The record of the ports (R103) -/

/-- Settles O30: at most one event by the fetch, two by the instruction or one by a decode failure, none by the
outcome and the bookkeeping. -/
theorem portsOnlyGrow : Obligations.PortsOnlyGrow := by
  intro s t h
  obtain ⟨m, out, u, he, hf, rfl⟩ := step_effect h
  obtain ⟨fetched, hfetched, hlen⟩ := (fetch_frame s).events
  obtain ⟨made, hmade, hlen'⟩ := he.events
  refine ⟨made ++ fetched, ?_, ?_⟩
  · rw [bookkeeping_events, finish_events hf, hmade, hfetched, List.append_assoc]
  · rw [List.length_append]
    omega

/-! ### The bookkeeping (R92 steps 6 to 8) -/

/-- Steps 6 and 7. -/
theorem ticked_clearZero_tick (u : State) : Ticked u u.clearZero.tick where
  zeroStored := u.clearZero_zero
  count := u.clearZero.slot_tick 9#5
  otherSlots n hn := slot_ticked u (by simpa using hn)
  registers := u.reg_clearZero
  pairs := ⟨rfl, rfl, rfl, rfl⟩
  memory := rfl
  pcs := ⟨rfl, rfl, rfl, rfl⟩
  latches := ⟨rfl, rfl, rfl⟩
  ports := ⟨rfl, rfl⟩

/-- A line is pending and not masked exactly when its bit is set in both registers (`60_exceptions.md` R313). -/
theorem pendingLines_ne_zero_iff (cause status : Word) :
    pendingLines cause status ≠ 0#32 ↔
      ∃ b, (b = 10 ∨ b = 11 ∨ b = 15) ∧ cause.getLsbD b = true ∧ status.getLsbD b = true := by
  constructor
  · intro h
    have hmask : pendingLines cause status &&& 0x00008C00#32 = pendingLines cause status := by
      rw [pendingLines, BitVec.and_assoc, BitVec.and_self]
    by_contra hnone
    refine h (BitVec.eq_of_getLsbD_eq fun b _ => ?_)
    rw [BitVec.getLsbD_zero]
    by_cases hb : b = 10 ∨ b = 11 ∨ b = 15
    · refine Bool.eq_false_iff.2 fun hset => hnone ⟨b, hb, ?_⟩
      simp only [pendingLines, BitVec.getLsbD_and, Bool.and_eq_true] at hset
      exact hset.1
    · exact getLsbD_lines hmask (by simpa using hb)
  · rintro ⟨b, hb, hcause, hstatus⟩ hzero
    have hbit : (pendingLines cause status).getLsbD b = true := by
      rw [pendingLines, BitVec.getLsbD_and, BitVec.getLsbD_and, hcause, hstatus]
      obtain rfl | rfl | rfl := hb <;> rfl
    simp [hzero] at hbit

/-- The machine admits an interrupt on the condition of R313. -/
theorem interruptAdmitted_iff (u : State) : interruptAdmitted u.cause u.status = true ↔ InterruptCondition u := by
  simp only [interruptAdmitted, InterruptCondition, Bool.and_eq_true, Bool.not_eq_true', bne_iff_ne,
    pendingLines_ne_zero_iff, and_assoc]
  rfl

theorem afterBookkeeping_bookkeeping (u : State) : AfterBookkeeping u u.bookkeeping := by
  refine ⟨u.clearZero.tick, ticked_clearZero_tick u, ?_⟩
  obtain ⟨hadmit, h⟩ | ⟨hadmit, h⟩ := bookkeeping_cases u <;> rw [h, ← interruptAdmitted_iff, hadmit]
  · refine ⟨fun _ => ⟨entersException_takeException _ .int, ?_, ?_⟩, fun hno => absurd rfl hno⟩
    · exact State.slot_takeException_other _ _ (by decide)
    · exact ⟨State.takeException_events _ _, State.takeException_freeIndex _ _⟩
  · exact ⟨fun hyes => absurd hyes (by decide), fun _ => rfl⟩

/-! ### A step -/

section
variable {s : State} (hr : s.resetDone = true) (hp : s.pcAligned = true)
include hr hp

/-- The bookkeeping follows what the fetched word did. -/
theorem step_of_executed {u : State} (h : executeWord s.fetch.1 s.fetch.2 = .next u) :
    ∃ t, step s = .next t ∧ AfterBookkeeping u t :=
  ⟨u.bookkeeping, by rw [step_eq hr hp, h]; rfl, afterBookkeeping_bookkeeping u⟩

theorem step_of_refused {r : Refusal} (h : executeWord s.fetch.1 s.fetch.2 = .refused r) : step s = .refused r := by
  rw [step_eq hr hp, h]
  rfl

end

/-- Settles O10: executing the fetched word is `exec` of its instruction or the report of a decode failure, and the
step adds the bookkeeping or is refused with it. -/
theorem stepRunsDecodedInstruction : Obligations.StepRunsDecodedInstruction := by
  intro s hr hpc
  have hp := s.pcAligned_iff.2 hpc
  refine ⟨fun i hdec => ⟨fun u hu => ?_, fun r hrefused => ?_⟩, fun e hdec => ?_⟩
  · exact step_of_executed hr hp ((executeWord_ok hdec _).trans hu)
  · exact step_of_refused hr hp ((executeWord_ok hdec _).trans hrefused)
  · have hu := executeWord_error hdec s.fetch.2
    obtain ⟨t, ht, hbook⟩ := step_of_executed hr hp hu
    exact ⟨_, t, hu, ht, hbook⟩

/-- Settles O13: `pcAligned` is the condition of R93, and `step` checks it before the fetch. -/
theorem misalignedPcRefused : Obligations.MisalignedPcRefused := by
  intro s hr hpc
  have hp : s.pcAligned = false := Bool.eq_false_iff.2 fun h => hpc (s.pcAligned_iff.1 h)
  simp [step, hr, hp]

end Sys2Proof.Machine
end

section
/-! PROOFS. Control transfers in a delay slot (`40_step_driver.md` R98): every outcome but Next and Exception is refused
there, and so is a link. Which outcome a conditional branch has is its row's condition. -/

namespace Sys2Proof.Machine

open Sys2Proof.Claims

/-! ### What is refused in a delay slot -/

/-- The level bit is not part of the branch state. -/
@[simp] theorem State.leaveLevel_isBranching (s : State) : s.leaveLevel.isBranching = s.isBranching := by
  unfold State.leaveLevel
  split <;> rfl

section
variable {s : State} (hs : s.isBranching = true)
include hs

theorem outsideDelaySlot_in_slot (answer : Host.Outcome State Fault Refusal) :
    outsideDelaySlot s answer = .refused .controlTransferInDelaySlot := if_pos hs

theorem finish_taken_in_slot (target : VAddr) : s.finish (.taken target) = .refused .controlTransferInDelaySlot :=
  outsideDelaySlot_in_slot hs _

theorem finish_skip_in_slot : s.finish .skip = .refused .controlTransferInDelaySlot := outsideDelaySlot_in_slot hs _

theorem finish_redirect_in_slot (target : VAddr) :
    s.finish (.redirect target) = .refused .controlTransferInDelaySlot := outsideDelaySlot_in_slot hs _

theorem linkThen_in_slot (r : Reg) (out : Control) : s.linkThen r out = .refused .controlTransferInDelaySlot :=
  outsideDelaySlot_in_slot hs _

/-- The transfers that have no meaning in a delay slot whatever the registers hold. -/
theorem exec_neverInDelaySlot {i : Instr} (h : neverInDelaySlot i = true) :
    exec i s = .refused .controlTransferInDelaySlot := by
  cases i with
  | j | jr => exact finish_taken_in_slot hs _
  | jal | jalr | bltzal | bgezal | bltzall | bgezall => exact linkThen_in_slot hs _ _
  | eret => exact finish_redirect_in_slot (s.leaveLevel_isBranching.trans hs) _
  | _ => cases h

end

/-! ### The outcome of a conditional branch (`41_branch_jump.md` R116 to R127) -/

/-- The row's instruction has outcome Taken on the row's condition, and the outcome `otherwise` without it. -/
structure ExecutesAsBranch (otherwise : Control) (row : BranchRow) : Prop where
  taken : ∀ s w, row.condition s w →
    exec (row.instr w) s = s.finish (.taken (branchTarget s.pc (immField w)))
  notTaken : ∀ s w, ¬ row.condition s w → exec (row.instr w) s = s.finish otherwise

section
variable {otherwise : Control} {selects : Word → Bool} {instr : Word → Instr} {condition : State → Word → Prop}

/-- The machine decides the condition of the row. -/
theorem executesAsBranch_of_branchIf (c : State → Word → Bool) (hc : ∀ s w, c s w = true ↔ condition s w)
    (hexec : ∀ s w, exec (instr w) s = s.finish (s.branchIf (c s w) (immField w) otherwise)) :
    ExecutesAsBranch otherwise ⟨selects, instr, condition⟩ where
  taken s w h := by rw [hexec, (hc s w).2 h]; rfl
  notTaken s w h := by rw [hexec, Bool.eq_false_iff.2 (mt (hc s w).1 h)]; rfl

end

section
variable (s : State) (w : Word)

theorem low_beq_iff : (s.low (rsField w) == s.low (rtField w)) = true ↔ equalRsRt s w := beq_iff_eq

theorem low_bne_iff : (s.low (rsField w) != s.low (rtField w)) = true ↔ ¬ equalRsRt s w := bne_iff_ne

theorem isNotPositive_iff : isNotPositive (s.low (rsField w)) = true ↔ signedRs s w ≤ 0 := decide_eq_true_iff

theorem isNegative_iff : isNegative (s.low (rsField w)) = true ↔ signedRs s w < 0 := decide_eq_true_iff

theorem not_isNotPositive_iff : (!isNotPositive (s.low (rsField w))) = true ↔ signedRs s w > 0 := by
  rw [Bool.not_eq_true', Bool.eq_false_iff, ne_eq, isNotPositive_iff, not_le, gt_iff_lt]

theorem not_isNegative_iff : (!isNegative (s.low (rsField w))) = true ↔ signedRs s w ≥ 0 := by
  rw [Bool.not_eq_true', Bool.eq_false_iff, ne_eq, isNegative_iff, not_lt, ge_iff_le]

end

theorem ordinaryBranches_execute : ∀ row ∈ ordinaryBranches, ExecutesAsBranch .next row := by
  simp only [ordinaryBranches, List.forall_mem_cons]
  exact ⟨executesAsBranch_of_branchIf _ low_beq_iff fun _ _ => rfl,
    executesAsBranch_of_branchIf _ low_bne_iff fun _ _ => rfl,
    executesAsBranch_of_branchIf _ isNotPositive_iff fun _ _ => rfl,
    executesAsBranch_of_branchIf _ not_isNotPositive_iff fun _ _ => rfl,
    executesAsBranch_of_branchIf _ isNegative_iff fun _ _ => rfl,
    executesAsBranch_of_branchIf _ not_isNegative_iff fun _ _ => rfl,
    by simp⟩

theorem likelyBranches_execute : ∀ row ∈ likelyBranches, ExecutesAsBranch .skip row := by
  simp only [likelyBranches, List.forall_mem_cons]
  exact ⟨executesAsBranch_of_branchIf _ low_beq_iff fun _ _ => rfl,
    executesAsBranch_of_branchIf _ low_bne_iff fun _ _ => rfl,
    executesAsBranch_of_branchIf _ isNotPositive_iff fun _ _ => rfl,
    executesAsBranch_of_branchIf _ not_isNotPositive_iff fun _ _ => rfl,
    executesAsBranch_of_branchIf _ isNegative_iff fun _ _ => rfl,
    executesAsBranch_of_branchIf _ not_isNegative_iff fun _ _ => rfl,
    by simp⟩

/-- Settles O39: Taken and Skip are refused in a delay slot, and a branch that is not taken and not likely ends in
Next. -/
theorem controlTransferInDelaySlotRefused : Obligations.ControlTransferInDelaySlotRefused := by
  intro s hs
  refine ⟨fun i => exec_neverInDelaySlot hs, fun row hrow w _ => ?_, fun row hrow w _ => ⟨fun hc => ?_, fun hc => ?_⟩⟩
  · have hbranch := likelyBranches_execute row hrow
    by_cases hc : row.condition s w
    · exact (hbranch.taken s w hc).trans (finish_taken_in_slot hs _)
    · exact (hbranch.notTaken s w hc).trans (finish_skip_in_slot hs)
  · exact ((ordinaryBranches_execute row hrow).taken s w hc).trans (finish_taken_in_slot hs _)
  · exact completesWithNothing ((ordinaryBranches_execute row hrow).notTaken s w hc)

end Sys2Proof.Machine
end

section
/-! PROOFS. Jumps and branches outside a delay slot (`41_branch_jump.md` R110 to R131): there a transfer is its link, if
it has one, and then its outcome. So two facts settle a branch: what its words decode to, and which outcome its
condition selects. -/

namespace Sys2Proof.Machine

open Sys2Proof.Claims

/-! ### The link (R111) -/

/-- The effect of a control transfer on the registers, before its outcome. -/
def State.writeLink (s : State) : Option Reg → State
  | some r => s.setLow r (linkValue s.pc)
  | none => s

/-- The link is all a transfer writes. -/
theorem writeLink_frame (s : State) (link : Option Reg) : SamePc s (s.writeLink link) ∧ SamePairs s (s.writeLink link) ∧
    SameSlots s (s.writeLink link) ∧ SameMem s (s.writeLink link) ∧ SamePorts s (s.writeLink link) ∧
    SameLatches s (s.writeLink link) := by
  cases link with
  | none => exact ⟨samePc_refl s, samePairs_refl s, sameSlots_refl s, sameMem_refl s, samePorts_refl s, sameLatches_refl s⟩
  | some r => simp [State.writeLink, SamePc, SamePairs, SameSlots, SameMem, SamePorts, SameLatches]

/-- Whatever happens to `pc` after it. -/
theorem links_writeLink {s t : State} {link : Option Reg} (h : t.gpr = (s.writeLink link).gpr) : Links link s t := by
  have hreg := State.reg_congr h
  cases link with
  | none => exact hreg
  | some r =>
    have hw := wroteLow_setLow s r (linkValue s.pc)
    exact ⟨fun hr => hreg r ▸ hw.value hr, fun hr => hreg r ▸ hw.upper hr, State.reg_zero t,
      fun q hq => (hreg q).trans (hw.others q hq)⟩

/-! ### Outcomes outside a delay slot (`40_step_driver.md` R94, R96) -/

section
variable {s : State} (hs : s.isBranching = false)
include hs

theorem outsideDelaySlot_outside (answer : Host.Outcome State Fault Refusal) : outsideDelaySlot s answer = answer :=
  if_neg (Bool.eq_false_iff.1 hs)

theorem linkThen_outside (r : Reg) (out : Control) : s.linkThen r out = (s.writeLink (some r)).finish out :=
  outsideDelaySlot_outside hs _

variable {i : Instr} {link : Option Reg}

theorem completesTaken {target : VAddr} (h : exec i s = (s.writeLink link).finish (.taken target)) :
    CompletesTaken i s target link := by
  obtain ⟨⟨hpc, _, hbranching, _⟩, hrest⟩ := writeLink_frame s link
  exact ⟨_, h.trans (outsideDelaySlot_outside (hbranching.trans hs) _), ⟨congrArg (· + 4#32) hpc, rfl, rfl, rfl⟩,
    links_writeLink rfl, hrest⟩

theorem completesSkip (h : exec i s = (s.writeLink link).finish .skip) : CompletesSkip i s link := by
  obtain ⟨⟨hpc, htarget, hbranching, hcountdown⟩, hrest⟩ := writeLink_frame s link
  exact ⟨_, h.trans (outsideDelaySlot_outside (hbranching.trans hs) _),
    ⟨congrArg (· + 8#32) hpc, htarget, hbranching.trans hs, hcountdown⟩, links_writeLink rfl, hrest⟩

end

/-! ### Targets (R110) -/

/-- Joining the region, the index and two zero bits is the arithmetic of the statement. -/
theorem jumpTarget_indexField (s : State) (w : Word) : jumpTarget s.pc (indexField w) = jumpGoal s w := by
  apply BitVec.eq_of_toNat_eq
  have hindex := (indexField w).isLt
  rw [jumpTarget, jumpGoal, BitVec.toNat_append, ← Nat.shiftLeft_add_eq_or_of_lt (by simp), BitVec.toNat_append,
    ← Nat.shiftLeft_add_eq_or_of_lt hindex, BitVec.extractLsb'_toNat, BitVec.toNat_ofNat, BitVec.toNat_ofNat,
    Nat.shiftLeft_eq, Nat.shiftLeft_eq, Nat.shiftRight_eq_div_pow]
  omega

/-! ### Decoding (`30_encoding.md` R75, R78) -/

/-- The words of REGIMM (R78). -/
theorem decode_of_regimm {w : Word} (h : opField w = 0x01#6) : decode w = decodeRegimm w := by
  rw [decode_of_opField (by simp [h])]
  simp [decodePrimary, h]

/-- The words the row selects decode to the row's instruction. -/
def RowDecodes (row : BranchRow) : Prop := ∀ w, row.selects w = true → decode w = .ok (row.instr w)

section
variable {instr : Word → Instr} {condition : State → Word → Prop}

theorem decodes_of_opField {op : BitVec 6} (h : ∀ w, opField w = op → decodePrimary w = .ok (instr w))
    (hop : op ≠ 0#6 := by decide) :
    RowDecodes ⟨fun w => opField w == op, instr, condition⟩ := by
  intro w hw
  have hw : opField w = op := eq_of_beq hw
  rw [decode_of_opField (hw ▸ hop), h w hw]

theorem decodes_of_regimm {rt : BitVec 5} (h : ∀ w, rtField w = rt → decodeRegimm w = .ok (instr w)) :
    RowDecodes ⟨regimm rt, instr, condition⟩ := by
  intro w hw
  obtain ⟨hop, hrt⟩ : opField w = 0x01#6 ∧ rtField w = rt := by simpa [regimm] using hw
  rw [decode_of_regimm hop, h w hrt]

end

theorem branches_decode :
    ∀ row ∈ ordinaryBranches ++ likelyBranches ++ ordinaryLinkBranches ++ likelyLinkBranches, RowDecodes row := by
  simp only [ordinaryBranches, likelyBranches, ordinaryLinkBranches, likelyLinkBranches, List.cons_append,
    List.nil_append, List.forall_mem_cons]
  refine ⟨decodes_of_opField ?_, decodes_of_opField ?_, decodes_of_opField ?_, decodes_of_opField ?_,
    decodes_of_regimm ?_, decodes_of_regimm ?_,
    decodes_of_opField ?_, decodes_of_opField ?_, decodes_of_opField ?_, decodes_of_opField ?_,
    decodes_of_regimm ?_, decodes_of_regimm ?_,
    decodes_of_regimm ?_, decodes_of_regimm ?_, decodes_of_regimm ?_, decodes_of_regimm ?_, by simp⟩ <;>
  · intro w hw
    simp [decodePrimary, decodeRegimm, hw]

/-! ### The outcome of a branch that links (R128 to R131) -/

/-- The row's instruction writes its link in either case, then has outcome Taken on the row's condition, and the outcome
`otherwise` without it. -/
structure ExecutesAsLinkBranch (otherwise : Control) (row : BranchRow) : Prop where
  taken : ∀ s w, row.condition s w →
    exec (row.instr w) s = s.linkThen 31#5 (.taken (branchTarget s.pc (immField w)))
  notTaken : ∀ s w, ¬ row.condition s w → exec (row.instr w) s = s.linkThen 31#5 otherwise

section
variable {otherwise : Control} {selects : Word → Bool} {instr : Word → Instr} {condition : State → Word → Prop}

/-- The machine decides the condition of the row, on the register as it was before the link. -/
theorem executesAsLinkBranch_of_branchIf (c : State → Word → Bool) (hc : ∀ s w, c s w = true ↔ condition s w)
    (hexec : ∀ s w, exec (instr w) s = s.linkThen 31#5 (s.branchIf (c s w) (immField w) otherwise)) :
    ExecutesAsLinkBranch otherwise ⟨selects, instr, condition⟩ where
  taken s w h := by rw [hexec, (hc s w).2 h]; rfl
  notTaken s w h := by rw [hexec, Bool.eq_false_iff.2 (mt (hc s w).1 h)]; rfl

end

theorem ordinaryLinkBranches_execute : ∀ row ∈ ordinaryLinkBranches, ExecutesAsLinkBranch .next row := by
  simp only [ordinaryLinkBranches, List.forall_mem_cons]
  exact ⟨executesAsLinkBranch_of_branchIf _ isNegative_iff fun _ _ => rfl,
    executesAsLinkBranch_of_branchIf _ not_isNegative_iff fun _ _ => rfl, by simp⟩

theorem likelyLinkBranches_execute : ∀ row ∈ likelyLinkBranches, ExecutesAsLinkBranch .skip row := by
  simp only [likelyLinkBranches, List.forall_mem_cons]
  exact ⟨executesAsLinkBranch_of_branchIf _ isNegative_iff fun _ _ => rfl,
    executesAsLinkBranch_of_branchIf _ not_isNegative_iff fun _ _ => rfl, by simp⟩

/-! ### Jumps and branches complete

A namespace of their own keeps the names of these theorems apart from those of the tables of branches. -/

namespace BranchJump

/-- Settles O35: the target is taken from the old registers, the link written, the outcome Taken. -/
theorem jumps : Obligations.Jumps := by
  intro w s hs
  rw [← jumpTarget_indexField]
  refine ⟨fun hop => ⟨?_, completesTaken hs rfl⟩, fun hop => ⟨?_, completesTaken hs (linkThen_outside hs _ _)⟩,
    fun ⟨hop, hf⟩ => ⟨?_, completesTaken hs rfl⟩, fun ⟨hop, hf⟩ => ⟨?_, completesTaken hs (linkThen_outside hs _ _)⟩⟩
  · rw [decode_of_opField (by simp [hop])]
    simp [decodePrimary, hop]
  · rw [decode_of_opField (by simp [hop])]
    simp [decodePrimary, hop]
  · rw [decode_of_special hop (by simp [hf])]
    simp [decodeSpecial, hf]
  · rw [decode_of_special hop (by simp [hf])]
    simp [decodeSpecial, hf]

/-- Settles O36: the row's condition selects Taken or Next. -/
theorem ordinaryBranches : Obligations.OrdinaryBranches := by
  intro row hrow w s hw hs
  have hexec := ordinaryBranches_execute row hrow
  exact ⟨branches_decode row (by simp [hrow]) w hw, fun hc => completesTaken hs (hexec.taken s w hc),
    fun hc => completesWithNothing (hexec.notTaken s w hc)⟩

/-- Settles O37: the row's condition selects Taken or Skip. -/
theorem likelyBranches : Obligations.LikelyBranches := by
  intro row hrow w s hw hs
  have hexec := likelyBranches_execute row hrow
  exact ⟨branches_decode row (by simp [hrow]) w hw, fun hc => completesTaken hs (hexec.taken s w hc),
    fun hc => completesSkip hs (hexec.notTaken s w hc)⟩

/-- Settles O38: the link stands before either outcome. -/
theorem branchAndLink : Obligations.BranchAndLink := by
  refine ⟨fun row hrow w s hw hs => ?_, fun row hrow w s hw hs => ?_⟩
  · have hexec := ordinaryLinkBranches_execute row hrow
    exact ⟨branches_decode row (by simp [hrow]) w hw,
      fun hc => completesTaken hs ((hexec.taken s w hc).trans (linkThen_outside hs _ _)),
      fun hc => completesWithLow ((hexec.notTaken s w hc).trans (linkThen_outside hs _ _))⟩
  · have hexec := likelyLinkBranches_execute row hrow
    exact ⟨branches_decode row (by simp [hrow]) w hw,
      fun hc => completesTaken hs ((hexec.taken s w hc).trans (linkThen_outside hs _ _)),
      fun hc => completesSkip hs ((hexec.notTaken s w hc).trans (linkThen_outside hs _ _))⟩

end BranchJump

end Sys2Proof.Machine
end

section
/-! PROOFS. Aligned loads and stores (`42_load_store.md` R140 to R153). An access at an aligned address is a bus read
and a register write, or a bus write, then outcome Next: that is said once for a load of any width and once for a store.
A row of the tables then says which access its instruction is. -/

namespace Sys2Proof.Machine

open Sys2Proof.Claims

/-! ### What the bus did, seen after the register write and the outcome -/

/-- A bus read is a fact about the ports and `Cause` of the state after it. -/
theorem readsBus_of_eq {s t u : State} {w : Width} {n : Nat} {ea : VAddr} {v : Nat} (h : ReadsBus s t w n ea v)
    (hevents : u.events = t.events) (hcause : u.cause = t.cause) : ReadsBus s u w n ea v where
  array := by simpa only [hevents, hcause] using h.array
  noTarget := by simpa only [hevents, hcause] using h.noTarget
  peripheral := by simpa only [hevents, hcause] using h.peripheral
  peripheralQuad := by simpa only [hevents, hcause] using h.peripheralQuad

/-- A bus write is a fact about memory, the ports and `Cause` of the state after it. -/
theorem writesBus_of_eq {s t u : State} {w : Width} {n : Nat} {ea : VAddr} {v : Nat} (h : WritesBus s t w n ea v)
    (hmem : u.mem = t.mem) (hevents : u.events = t.events) (hcause : u.cause = t.cause) : WritesBus s u w n ea v where
  arrayStored := by simpa only [hmem] using h.arrayStored
  arrayOthers := by simpa only [hmem] using h.arrayOthers
  arrayPorts := by simpa only [hevents, hcause] using h.arrayPorts
  rom := by simpa only [SameMem, hmem, hevents, hcause] using h.rom
  noTarget := by simpa only [SameMem, hmem, hevents, hcause] using h.noTarget
  peripheral := by simpa only [SameMem, hmem, hevents, hcause] using h.peripheral
  peripheralQuad := by simpa only [SameMem, hmem, hevents, hcause] using h.peripheralQuad

/-- Outcome Next after a bus access. -/
theorem BusFrame.accessFrame_advance {s m : State} (h : BusFrame s m) : AccessFrame s m.advance :=
  ⟨nextPc_advance h.pcs, samePairs_advance h.pairs, sameSlotsBut_advance h.slots, sameLatches_advance h.latches⟩

/-- Outcome Next after a bus access and a register write. -/
theorem BusFrame.accessFrame_setReg_advance {s m : State} (h : BusFrame s m) (d : Reg) (v : QWord) :
    AccessFrame s (m.setReg d v).advance where
  next := nextPc_advance (by simpa [SamePc] using h.pcs)
  pairs := samePairs_advance (by simpa [SamePairs] using h.pairs)
  slots := sameSlotsBut_advance fun n hn => (m.slot_setReg d v n).trans (h.slots n hn)
  latches := sameLatches_advance (by simpa [SameLatches] using h.latches)

/-! ### An aligned access of any width (R140) -/

section
variable {s : State} {width : Width} {base : Reg} {offset : BitVec 16}

/-- What an aligned load into `x[d]` does: `f` makes the new register of the old one and the value read. -/
theorem State.alignedLoad_completes (d : Reg) (f : QWord → QWord → QWord)
    (h : aligned width (s.effectiveAddress base offset) = true) :
    ∃ (t : State) (v : QWord),
      s.alignedLoad width base offset (fun m v => m.setReg d (f (m.reg d) v)) = .next t ∧
      v.toNat < 2 ^ (8 * widthBytes width) ∧
      ReadsBus s t width (widthBytes width) (s.effectiveAddress base offset) v.toNat ∧
      (∀ q, t.reg q = (s.setReg d (f (s.reg d) v)).reg q) ∧ AccessFrame s t ∧ SameMem s t := by
  have hframe := s.busFrame_memRead width (s.effectiveAddress base offset)
  refine ⟨_, (s.memRead width (s.effectiveAddress base offset)).1, if_pos h, s.toNat_memRead_lt _ _,
    readsBus_of_eq (s.readsBus_memRead _ _) ?_ ?_, fun q => ?_, hframe.accessFrame_setReg_advance _ _, ?_⟩
  · rw [State.advance_events, State.setReg_events]
  · rw [State.cause_eq, State.slot_advance, State.slot_setReg, State.cause_eq]
  · simp only [State.reg_advance, State.reg_setReg, State.reg_congr hframe.gpr]
  · exact sameMem_advance fun a => by rw [State.setReg_mem, State.memRead_mem]

/-- What an aligned store of the low bytes of `v` does. -/
theorem State.alignedStore_completes (hm : s.mem.wf) (v : QWord)
    (h : aligned width (s.effectiveAddress base offset) = true) :
    ∃ t, s.alignedStore width base offset v = .next t ∧
      WritesBus s t width (widthBytes width) (s.effectiveAddress base offset) v.toNat ∧
      AccessFrame s t ∧ SameGpr s t := by
  have hframe := s.busFrame_memWrite width (s.effectiveAddress base offset) v
  exact ⟨_, if_pos h,
    writesBus_of_eq (State.writesBus_memWrite hm _ _ v) (State.advance_mem _) (State.advance_events _)
      (State.slot_advance _ _),
    hframe.accessFrame_advance, sameGpr_advance (State.reg_congr hframe.gpr)⟩

end

/-! ### The loads of at most 64 bits (R141 to R147) -/

/-- A register write is a fact about the registers of the state after it. -/
theorem wroteLow_of_reg_eq {d : Reg} {v : DWord} {s t u : State} (h : WroteLow d v s t)
    (hreg : ∀ q, u.reg q = t.reg q) : WroteLow d v s u where
  value hd := hreg d ▸ h.value hd
  upper hd := hreg d ▸ h.upper hd
  zero := State.reg_zero u
  others r hr := (hreg r).trans (h.others r hr)

/-- A value that fits `n` bits is kept by narrowing to them. -/
theorem setWidth_narrow {v : QWord} (n : Nat) (h : v.toNat < 2 ^ n) :
    (v.setWidth n).setWidth 64 = BitVec.ofNat 64 v.toNat := by
  apply BitVec.eq_of_toNat_eq
  rw [BitVec.toNat_setWidth, BitVec.toNat_setWidth, BitVec.toNat_ofNat, Nat.mod_eq_of_lt h]

/-- The row's words decode to its instruction, which is an aligned load of the row's width, and writes the low half of
its register with `value` of what it read. -/
structure ExecutesAsLoad (row : LoadRow) (value : QWord → DWord) : Prop where
  bytes : row.bytes = widthBytes row.width
  opcode : row.op ≠ 0#6
  decodes : ∀ w, opField w = row.op → decodePrimary w = .ok (accessInstr row.instr w)
  executes : ∀ rt base offset s, exec (row.instr rt base offset) s =
    s.alignedLoad row.width base offset (fun t v => t.setLow rt (value v))
  extended : ∀ v, v.toNat < 2 ^ (8 * row.bytes) → value v = row.extend v.toNat

theorem alignedLoads_execute : ∀ row ∈ alignedLoads, ∃ value, ExecutesAsLoad row value := by
  unfold alignedLoads
  simp only [List.forall_mem_cons]
  refine ⟨⟨fun v => (v.setWidth 8).signExtend 64, rfl, by decide, ?_, fun _ _ _ _ => rfl, fun _ _ => rfl⟩,
    ⟨fun v => (v.setWidth 8).setWidth 64, rfl, by decide, ?_, fun _ _ _ _ => rfl, fun _ h => setWidth_narrow 8 h⟩,
    ⟨fun v => (v.setWidth 16).signExtend 64, rfl, by decide, ?_, fun _ _ _ _ => rfl, fun _ _ => rfl⟩,
    ⟨fun v => (v.setWidth 16).setWidth 64, rfl, by decide, ?_, fun _ _ _ _ => rfl, fun _ h => setWidth_narrow 16 h⟩,
    ⟨fun v => (v.setWidth 32).signExtend 64, rfl, by decide, ?_, fun _ _ _ _ => rfl, fun _ _ => rfl⟩,
    ⟨fun v => (v.setWidth 32).setWidth 64, rfl, by decide, ?_, fun _ _ _ _ => rfl, fun _ h => setWidth_narrow 32 h⟩,
    ⟨fun v => v.setWidth 64, rfl, by decide, ?_, fun _ _ _ _ => rfl, fun _ _ => rfl⟩,
    by simp⟩ <;>
  · intro w hw
    simp [decodePrimary, hw, accessInstr]

/-! ### The stores (R149 to R153) -/

/-- The row's words decode to its instruction, which is an aligned store of the row's width of `x[rt]`. -/
structure ExecutesAsStore (row : StoreRow) : Prop where
  bytes : row.bytes = widthBytes row.width
  opcode : row.op ≠ 0#6
  decodes : ∀ w, opField w = row.op → decodePrimary w = .ok (accessInstr row.instr w)
  executes : ∀ rt base offset s, exec (row.instr rt base offset) s = s.alignedStore row.width base offset (s.reg rt)

theorem alignedStores_execute : ∀ row ∈ alignedStores, ExecutesAsStore row := by
  unfold alignedStores
  simp only [List.forall_mem_cons]
  refine ⟨⟨rfl, by decide, ?_, fun _ _ _ _ => rfl⟩, ⟨rfl, by decide, ?_, fun _ _ _ _ => rfl⟩,
    ⟨rfl, by decide, ?_, fun _ _ _ _ => rfl⟩, ⟨rfl, by decide, ?_, fun _ _ _ _ => rfl⟩,
    ⟨rfl, by decide, ?_, fun _ _ _ _ => rfl⟩, by simp⟩ <;>
  · intro w hw
    simp [decodePrimary, hw, accessInstr]

/-! ### Loads and stores complete

A namespace of their own keeps the names of these theorems apart from those of the tables. -/

namespace LoadStore

/-- Settles O40: each row's instruction is an aligned load that writes the low half of its register. -/
theorem alignedLoads : Obligations.AlignedLoads := by
  intro row hrow w s hop halign
  obtain ⟨value, hload⟩ := alignedLoads_execute row hrow
  rw [hload.bytes] at halign ⊢
  refine ⟨(decode_of_opField (hop ▸ hload.opcode)).trans (hload.decodes w hop), ?_⟩
  obtain ⟨t, v, hexec, hlt, hread, hreg, hframe, hmem⟩ := s.alignedLoad_completes (rtField w)
    (fun old v => old.extractLsb' 64 64 ++ value v) ((aligned_iff row.width _).2 halign)
  have hwrote : WroteLow (rtField w) (value v) s t := wroteLow_of_reg_eq (wroteLow_setLow s _ _) hreg
  exact ⟨t, v.toNat, (hload.executes _ _ _ s).trans hexec, hread, hload.extended v (hload.bytes ▸ hlt) ▸ hwrote,
    hframe, hmem⟩

/-- Settles O41: a load like the others, but for the register, which is replaced whole. -/
theorem loadQuadword : Obligations.LoadQuadword := by
  intro w s hop halign
  refine ⟨(decode_of_opField (by simp [hop])).trans (by simp [decodePrimary, hop, accessInstr]), ?_⟩
  obtain ⟨t, v, hexec, -, hread, hreg, hframe, hmem⟩ :=
    s.alignedLoad_completes (rtField w) (fun _ v => v) ((aligned_iff .quad _).2 halign)
  refine ⟨t, v.toNat, hexec, hread, fun hd => ?_, t.reg_zero, fun r hr => ?_, hframe, hmem⟩
  · simp [hreg, State.reg_setReg, hd]
  · simp [hreg, State.reg_setReg, hr]

/-- Settles O42: each row's instruction is an aligned store, and stores nothing but through the bus. -/
theorem alignedStores : Obligations.AlignedStores := by
  intro row hrow w s hm hop halign
  have hstore := alignedStores_execute row hrow
  rw [hstore.bytes] at halign ⊢
  refine ⟨(decode_of_opField (hop ▸ hstore.opcode)).trans (hstore.decodes w hop), ?_⟩
  obtain ⟨t, hexec, hrest⟩ :=
    State.alignedStore_completes hm (s.reg (rtField w)) ((aligned_iff row.width _).2 halign)
  exact ⟨t, (hstore.executes _ _ _ s).trans hexec, hrest⟩

end LoadStore

end Sys2Proof.Machine
end

section
/-! PROOFS. Left/right loads and stores (`43_unaligned.md` R160 to R169). One general lemma per shape of merge says, byte
by byte, what `(kept & mask) | (taken shifted)` is; the eight tables are entries of these two shapes. A load is then a
bus read and a register write, a store a bus read and a bus write, and a row says which table merges. For the idiom,
each of the two loads puts bytes of the datum where they belong, and together they cover it. -/

namespace Sys2Proof.Machine

open Sys2Proof.Claims

/-! ### Bytes of a number -/

theorem byteOf_toNat {N : Nat} (x : BitVec N) (j : Nat) : byteOf x.toNat j = (x.extractLsb' (8 * j) 8).toNat := by
  rw [BitVec.extractLsb'_toNat, Nat.shiftRight_eq_div_pow]
  rfl

/-- Byte `q` of a little-endian value (R41) is the byte at `a + q`. -/
theorem byteOf_leValue (m : Memory) (a : Nat) {n q : Nat} (h : q < n) :
    byteOf (leValue m a n) q = (m.read (a + q)).toNat := by
  induction n generalizing a q with
  | zero => omega
  | succ n ih =>
    have hb := (m.read a).isLt
    rw [leValue_succ]
    cases q with
    | zero =>
      simp only [byteOf, Nat.mul_zero, Nat.pow_zero, Nat.add_zero]
      omega
    | succ q =>
      have hnext : a + (q + 1) = a + 1 + q := by omega
      have htail : ((m.read a).toNat + 256 * leValue m (a + 1) n) / 2 ^ 8 = leValue m (a + 1) n := by omega
      rw [hnext, ← ih (a + 1) (by omega), byteOf, byteOf, Nat.mul_succ, Nat.add_comm (8 * q), Nat.pow_add,
        ← Nat.div_div_eq_div_mul, htail]

/-- The low `n` bytes of a number are the little-endian value they spell. -/
theorem mod_eq_leValue {m : Memory} {a v n : Nat} (h : ∀ j, j < n → byteOf v j = (m.read (a + j)).toNat) :
    v % 2 ^ (8 * n) = leValue m a n := by
  induction n with
  | zero => simp [leValue, Nat.mod_one]
  | succ n ih =>
    rw [Nat.mul_succ, Nat.pow_add, Nat.mod_mul, ih fun j hj => h j (by omega), leValue, ← h n (by omega)]
    exact congrArg _ (Nat.mul_comm _ _)

/-! ### The two shapes of merge (R161 to R168) -/

/-- A table entry of a merge that shifts left by `p` bytes: the mask keeps the low `p` bytes. -/
def leftEntry (N p : Nat) : BitVec N × Nat := (BitVec.allOnes N >>> (N - 8 * p), 8 * p)

/-- A table entry of a merge that shifts right by `p` bytes: the mask keeps the high `p` bytes. -/
def rightEntry (N p : Nat) : BitVec N × Nat := (BitVec.allOnes N <<< (N - 8 * p), 8 * p)

theorem lwlTable_eq : ∀ k, lwlTable k = leftEntry 32 (3 - k.toNat) := by decide
theorem lwrTable_eq : ∀ k, lwrTable k = rightEntry 32 k.toNat := by decide
theorem ldlTable_eq : ∀ k, ldlTable k = leftEntry 64 (7 - k.toNat) := by decide
theorem ldrTable_eq : ∀ k, ldrTable k = rightEntry 64 k.toNat := by decide
theorem swlTable_eq : ∀ k, swlTable k = rightEntry 32 (3 - k.toNat) := by decide
theorem swrTable_eq : ∀ k, swrTable k = leftEntry 32 k.toNat := by decide
theorem sdlTable_eq : ∀ k, sdlTable k = rightEntry 64 (7 - k.toNat) := by decide
theorem sdrTable_eq : ∀ k, sdrTable k = leftEntry 64 k.toNat := by decide

section
variable {N n : Nat} (hN : N = 8 * n) {p j : Nat} (hj : j < n) (kept taken : QWord)
include hN hj

/-- Shifted left, byte `j` of the merge is `taken`'s byte `p` lower, and `kept`'s below byte `p`. -/
theorem extractLsb'_mergeLeft :
    ((kept.setWidth N &&& (leftEntry N p).1) ||| (taken.setWidth N <<< (leftEntry N p).2)).extractLsb' (8 * j) 8 =
      if p ≤ j then taken.extractLsb' (8 * (j - p)) 8 else kept.extractLsb' (8 * j) 8 := by
  apply BitVec.eq_of_getLsbD_eq
  intro i hi
  have hbit : 8 * j + i < N := by omega
  by_cases hp : p ≤ j
  · have hshift : 8 * j + i - 8 * p = 8 * (j - p) + i := by omega
    have hbelow : ¬ 8 * j + i < 8 * p := by omega
    have hmask : ¬ N - 8 * p + (8 * j + i) < N := by omega
    simp [leftEntry, hp, hi, hbit, hshift, hbelow, hmask]
  · have hbelow : 8 * j + i < 8 * p := by omega
    have hmask : N - 8 * p + (8 * j + i) < N := by omega
    simp [leftEntry, hp, hi, hbit, hbelow, hmask]

/-- Shifted right, byte `j` of the merge is `taken`'s byte `p` higher, and `kept`'s where there is none. -/
theorem extractLsb'_mergeRight :
    ((kept.setWidth N &&& (rightEntry N p).1) ||| (taken.setWidth N >>> (rightEntry N p).2)).extractLsb' (8 * j) 8 =
      if j + p < n then taken.extractLsb' (8 * (j + p)) 8 else kept.extractLsb' (8 * j) 8 := by
  apply BitVec.eq_of_getLsbD_eq
  intro i hi
  have hbit : 8 * j + i < N := by omega
  by_cases hp : j + p < n
  · have hshift : 8 * p + (8 * j + i) = 8 * (j + p) + i := by omega
    have hmask : 8 * j + i < N - 8 * p := by omega
    have htaken : 8 * (j + p) + i < N := by omega
    simp [rightEntry, hp, hi, hshift, hmask, htaken]
  · have hmask : ¬ 8 * j + i < N - 8 * p := by omega
    have htaken : ¬ 8 * p + (8 * j + i) < N := by omega
    simp [rightEntry, hp, hi, hbit, hmask, htaken]

end

/-- The merge `f`, at offset `k`, puts byte `q` of its third argument in byte `j` where the source says `some q`, and
leaves the byte of its second argument elsewhere. -/
def MergesBytes {b N : Nat} (n : Nat) (f : BitVec b → BitVec N → BitVec N → BitVec N)
    (source : Nat → Nat → Option Nat) : Prop :=
  ∀ (k : BitVec b) (kept taken : QWord) (j : Nat), j < n →
    byteOf (f k (kept.setWidth N) (taken.setWidth N)).toNat j = mergedByte (source k.toNat j) taken.toNat kept.toNat j

section
variable {b N n : Nat} {table : BitVec b → BitVec N × Nat} {source : Nat → Nat → Option Nat} (places : Nat → Nat)

/-- A table of left entries merges as a source that takes each byte from `places` bytes lower. -/
theorem mergesBytes_left (hN : N = 8 * n) (htable : ∀ k, table k = leftEntry N (places k.toNat))
    (hsource : ∀ (k : BitVec b) j,
      source k.toNat j = if places k.toNat ≤ j then some (j - places k.toNat) else none) :
    MergesBytes n (fun k kept taken => (kept &&& (table k).1) ||| (taken <<< (table k).2)) source := by
  intro k kept taken j hj
  simp only [htable]
  rw [byteOf_toNat, extractLsb'_mergeLeft hN hj, hsource k j]
  split <;> exact (byteOf_toNat _ _).symm

/-- A table of right entries merges as a source that takes each byte from `places` bytes higher. -/
theorem mergesBytes_right (hN : N = 8 * n) (htable : ∀ k, table k = rightEntry N (places k.toNat))
    (hsource : ∀ (k : BitVec b) j,
      source k.toNat j = if j + places k.toNat < n then some (j + places k.toNat) else none) :
    MergesBytes n (fun k kept taken => (kept &&& (table k).1) ||| (taken >>> (table k).2)) source := by
  intro k kept taken j hj
  simp only [htable]
  rw [byteOf_toNat, extractLsb'_mergeRight hN hj, hsource k j]
  split <;> exact (byteOf_toNat _ _).symm

end

/-! ### The aligned unit (R160) -/

/-- The aligned unit of `n` bytes that holds `ea`. -/
def unitOf (n : Nat) (ea : VAddr) : VAddr := ea - BitVec.ofNat 32 (ea.toNat % n)

theorem toNat_unitOf (n : Nat) (ea : VAddr) : (unitOf n ea).toNat = ea.toNat - ea.toNat % n := by
  have hea := ea.isLt
  have hle := Nat.mod_le ea.toNat n
  rw [unitOf, BitVec.toNat_sub, BitVec.toNat_ofNat]
  omega

theorem wordBase_eq (ea : VAddr) : wordBase ea = unitOf 4 ea :=
  BitVec.eq_of_toNat_eq ((toNat_wordBase ea).trans (toNat_unitOf 4 ea).symm)

theorem doubleBase_eq (ea : VAddr) : doubleBase ea = unitOf 8 ea :=
  BitVec.eq_of_toNat_eq ((toNat_doubleBase ea).trans (toNat_unitOf 8 ea).symm)

/-- The unit around an address in an array lies in that array. -/
theorem route_unitOf {n : Nat} (hn : n = 4 ∨ n = 8) {ea : VAddr} {r : Region} {o : Nat} (h : route ea = .array r o) :
    ∃ o', route (unitOf n ea) = .array r o' ∧ o' + ea.toNat % n = o := by
  have hunit := toNat_unitOf n ea
  obtain ⟨o', hroute, -, ho⟩ := route_block (va := ea) (ea := unitOf n ea) (by obtain rfl | rfl := hn <;> omega) h
  exact ⟨o', hroute, by have := Nat.mod_le ea.toNat n; omega⟩

/-! ### The loads (R161 to R164) -/

/-- What a left/right load into `x[d]` at `ea` answers: the unit read, the bytes merged as `source` says, the merged
number written as `extend` says. -/
def CompletesMergeLoad (width : Width) (n : Nat) (source : Nat → Nat → Option Nat) (extend : Nat → DWord) (s : State)
    (d : Reg) (ea : VAddr) (answer : Host.Outcome State Fault Refusal) : Prop :=
  ∃ t m v, answer = .next t ∧ ReadsBus s t width n (unitOf n ea) m ∧ v < 2 ^ (8 * n) ∧
    (∀ j, j < n → byteOf v j = mergedByte (source (ea.toNat % n) j) m (s.reg d).toNat j) ∧
    WroteLow d (extend v) s t ∧ AccessFrame s t ∧ SameMem s t

/-- A write of the low half of `x[d]` after a bus access, seen from before the access. -/
theorem BusFrame.wroteLow_setLow_advance {s m : State} (h : BusFrame s m) (d : Reg) (v : DWord) :
    WroteLow d v s (m.setLow d v).advance := by
  have hwrote := wroteLow_advance (wroteLow_setLow m d v)
  refine ⟨hwrote.value, fun hd => ?_, hwrote.zero, fun r hr => ?_⟩
  · rw [hwrote.upper hd, State.reg_congr h.gpr]
  · rw [hwrote.others r hr, State.reg_congr h.gpr]

/-- A bus read, a write of the low half of `x[d]`, and outcome Next. -/
theorem State.memRead_setLow_advance (s : State) (w : Width) (va : VAddr) (d : Reg) (v : DWord) :
    ReadsBus s ((s.memRead w va).2.setLow d v).advance w (widthBytes w) va (s.memRead w va).1.toNat ∧
      WroteLow d v s ((s.memRead w va).2.setLow d v).advance ∧
      AccessFrame s ((s.memRead w va).2.setLow d v).advance ∧ SameMem s ((s.memRead w va).2.setLow d v).advance := by
  have hframe := s.busFrame_memRead w va
  refine ⟨readsBus_of_eq (s.readsBus_memRead w va) ?_ ?_, hframe.wroteLow_setLow_advance d v,
    hframe.accessFrame_setReg_advance d _, sameMem_advance fun a => ?_⟩
  · rw [State.advance_events, State.setLow_events]
  · rw [State.cause_eq, State.slot_advance, State.slot_setLow, State.cause_eq]
  · rw [State.setLow_mem, State.memRead_mem]

section
variable (s : State) (d base : Reg) (offset : BitVec 16) {source : Nat → Nat → Option Nat}

theorem mergeLoadWord_completes {merge : BitVec 2 → Word → Word → Word} (h : MergesBytes 4 merge source) :
    CompletesMergeLoad .word 4 source (fun v => (BitVec.ofNat 32 v).signExtend 64) s d (s.effectiveAddress base offset)
      (s.mergeLoadWord d base offset merge) := by
  simp only [State.mergeLoadWord, wordBase_eq]
  generalize s.effectiveAddress base offset = ea
  obtain ⟨hread, hwrote, hrest⟩ := s.memRead_setLow_advance .word (unitOf 4 ea) d
    (sextWord (merge (wordOffset ea) (s.word d) ((s.memRead .word (unitOf 4 ea)).1.setWidth 32)))
  have hbytes := h (wordOffset ea) (s.reg d) (s.memRead .word (unitOf 4 ea)).1
  rw [toNat_wordOffset] at hbytes
  refine ⟨_, _, _, rfl, hread, BitVec.isLt _, hbytes, ?_, hrest⟩
  simp only [BitVec.ofNat_toNat, BitVec.setWidth_eq]
  exact hwrote

theorem mergeLoadDouble_completes {merge : BitVec 3 → DWord → DWord → DWord} (h : MergesBytes 8 merge source) :
    CompletesMergeLoad .double 8 source (fun v => BitVec.ofNat 64 v) s d (s.effectiveAddress base offset)
      (s.mergeLoadDouble d base offset merge) := by
  simp only [State.mergeLoadDouble, doubleBase_eq]
  generalize s.effectiveAddress base offset = ea
  obtain ⟨hread, hwrote, hrest⟩ := s.memRead_setLow_advance .double (unitOf 8 ea) d
    (merge (doubleOffset ea) (s.low d) ((s.memRead .double (unitOf 8 ea)).1.setWidth 64))
  have hbytes := h (doubleOffset ea) (s.reg d) (s.memRead .double (unitOf 8 ea)).1
  rw [toNat_doubleOffset] at hbytes
  refine ⟨_, _, _, rfl, hread, BitVec.isLt _, hbytes, ?_, hrest⟩
  simp only [BitVec.ofNat_toNat, BitVec.setWidth_eq]
  exact hwrote

theorem exec_lwl : exec (.lwl d base offset) s =
    s.mergeLoadWord d base offset (fun k kept taken => mergeLeftWord (lwlTable k) kept taken) := rfl

theorem exec_lwr : exec (.lwr d base offset) s =
    s.mergeLoadWord d base offset (fun k kept taken => mergeRightWord (lwrTable k) kept taken) := rfl

theorem exec_ldl : exec (.ldl d base offset) s =
    s.mergeLoadDouble d base offset (fun k kept taken => mergeLeftDouble (ldlTable k) kept taken) := rfl

theorem exec_ldr : exec (.ldr d base offset) s =
    s.mergeLoadDouble d base offset (fun k kept taken => mergeRightDouble (ldrTable k) kept taken) := rfl

/-- Where a left load takes register byte `j` from, in a unit of `n` bytes. -/
def leftSource (n k j : Nat) : Option Nat := if n - 1 ≤ j + k then some (j + k - (n - 1)) else none

/-- Where a right load takes register byte `j` from. -/
def rightSource (n k j : Nat) : Option Nat := if j + k < n then some (j + k) else none

/-- A left load, seen from the register: byte `j` is a unit byte `n - 1 - k` lower. -/
theorem leftSource_eq {n k : Nat} (h : k < n) (j : Nat) :
    leftSource n k j = if n - 1 - k ≤ j then some (j - (n - 1 - k)) else none := by
  unfold leftSource
  by_cases hj : n - 1 ≤ j + k
  · rw [if_pos hj, if_pos (by omega), show j + k - (n - 1) = j - (n - 1 - k) by omega]
  · rw [if_neg hj, if_neg (by omega)]

theorem lwl_completes : CompletesMergeLoad .word 4 (leftSource 4) (fun v => (BitVec.ofNat 32 v).signExtend 64) s d
    (s.effectiveAddress base offset) (exec (.lwl d base offset) s) :=
  exec_lwl s d base offset ▸ mergeLoadWord_completes s d base offset
    (mergesBytes_left (3 - ·) rfl lwlTable_eq fun k j => leftSource_eq k.isLt j)

theorem lwr_completes : CompletesMergeLoad .word 4 (rightSource 4) (fun v => (BitVec.ofNat 32 v).signExtend 64) s d
    (s.effectiveAddress base offset) (exec (.lwr d base offset) s) :=
  exec_lwr s d base offset ▸ mergeLoadWord_completes s d base offset
    (mergesBytes_right id rfl lwrTable_eq fun _ _ => rfl)

theorem ldl_completes : CompletesMergeLoad .double 8 (leftSource 8) (fun v => BitVec.ofNat 64 v) s d
    (s.effectiveAddress base offset) (exec (.ldl d base offset) s) :=
  exec_ldl s d base offset ▸ mergeLoadDouble_completes s d base offset
    (mergesBytes_left (7 - ·) rfl ldlTable_eq fun k j => leftSource_eq k.isLt j)

theorem ldr_completes : CompletesMergeLoad .double 8 (rightSource 8) (fun v => BitVec.ofNat 64 v) s d
    (s.effectiveAddress base offset) (exec (.ldr d base offset) s) :=
  exec_ldr s d base offset ▸ mergeLoadDouble_completes s d base offset
    (mergesBytes_right id rfl ldrTable_eq fun _ _ => rfl)

end

/-- Each row of the table completes as its own columns say. -/
theorem mergeLoads_complete : ∀ row ∈ mergeLoads, ∀ s d base offset,
    CompletesMergeLoad row.width row.bytes row.source row.extend s d (s.effectiveAddress base offset)
      (exec (row.instr d base offset) s) := by
  unfold mergeLoads
  simp only [List.forall_mem_cons]
  exact ⟨lwl_completes, lwr_completes, ldl_completes, ldr_completes, by simp⟩

theorem mergeLoads_decode : ∀ row ∈ mergeLoads, ∀ w, opField w = row.op →
    decode w = .ok (accessInstr row.instr w) := by
  unfold mergeLoads
  simp only [List.forall_mem_cons]
  refine ⟨?_, ?_, ?_, ?_, by simp⟩ <;>
  · intro w hw
    rw [decode_of_opField (by simp [hw])]
    simp [decodePrimary, hw, accessInstr]

/-- Settles O43: each row's instruction completes as its merge table says. -/
theorem unalignedLoads : Obligations.UnalignedLoads := fun row hrow w s hop =>
  ⟨mergeLoads_decode row hrow w hop, mergeLoads_complete row hrow s (rtField w) (rsField w) (immField w)⟩

/-! ### The stores (R165 to R168) -/

/-- What a left/right store of `x[d]` at `ea` answers: the unit read, the bytes merged as `source` says, the whole unit
written. -/
def CompletesMergeStore (width : Width) (n : Nat) (source : Nat → Nat → Option Nat) (s : State) (d : Reg) (ea : VAddr)
    (answer : Host.Outcome State Fault Refusal) : Prop :=
  ∃ t mid m v, answer = .next t ∧ ReadsBus s mid width n (unitOf n ea) m ∧ mid.mem = s.mem ∧ v < 2 ^ (8 * n) ∧
    (∀ q, q < n → byteOf v q = mergedByte (source (ea.toNat % n) q) (s.reg d).toNat m q) ∧
    WritesBus mid t width n (unitOf n ea) v ∧ AccessFrame s t ∧ SameGpr s t

section
variable {s : State} (hm : s.mem.wf)
include hm

/-- A bus read, a bus write at the same address, and outcome Next. -/
theorem State.memRead_memWrite_advance (w : Width) (va : VAddr) (v : QWord) :
    WritesBus (s.memRead w va).2 ((s.memRead w va).2.memWrite w va v).advance w (widthBytes w) va v.toNat ∧
      AccessFrame s ((s.memRead w va).2.memWrite w va v).advance ∧
      SameGpr s ((s.memRead w va).2.memWrite w va v).advance := by
  have hframe := (s.busFrame_memRead w va).trans ((s.memRead w va).2.busFrame_memWrite w va v)
  have hmid : (s.memRead w va).2.mem.wf := (s.memRead_mem w va).symm ▸ hm
  exact ⟨writesBus_of_eq (State.writesBus_memWrite hmid w va v) (State.advance_mem _) (State.advance_events _)
      (State.slot_advance _ _), hframe.accessFrame_advance, sameGpr_advance (State.reg_congr hframe.gpr)⟩

variable (d base : Reg) (offset : BitVec 16) {source : Nat → Nat → Option Nat}

theorem mergeStoreWord_completes {merge : BitVec 2 → Word → Word → Word} (h : MergesBytes 4 merge source) :
    CompletesMergeStore .word 4 source s d (s.effectiveAddress base offset)
      (s.mergeStoreWord d base offset merge) := by
  simp only [State.mergeStoreWord, wordBase_eq]
  generalize s.effectiveAddress base offset = ea
  have hwrite := State.memRead_memWrite_advance hm .word (unitOf 4 ea)
    ((merge (wordOffset ea) ((s.memRead .word (unitOf 4 ea)).1.setWidth 32) (s.word d)).setWidth 128)
  rw [BitVec.toNat_setWidth_of_le (by decide)] at hwrite
  have hbytes := h (wordOffset ea) (s.memRead .word (unitOf 4 ea)).1 (s.reg d)
  rw [toNat_wordOffset] at hbytes
  exact ⟨_, _, _, _, rfl, s.readsBus_memRead .word _, s.memRead_mem _ _, BitVec.isLt _, hbytes, hwrite⟩

theorem mergeStoreDouble_completes {merge : BitVec 3 → DWord → DWord → DWord} (h : MergesBytes 8 merge source) :
    CompletesMergeStore .double 8 source s d (s.effectiveAddress base offset)
      (s.mergeStoreDouble d base offset merge) := by
  simp only [State.mergeStoreDouble, doubleBase_eq]
  generalize s.effectiveAddress base offset = ea
  have hwrite := State.memRead_memWrite_advance hm .double (unitOf 8 ea)
    ((merge (doubleOffset ea) ((s.memRead .double (unitOf 8 ea)).1.setWidth 64) (s.low d)).setWidth 128)
  rw [BitVec.toNat_setWidth_of_le (by decide)] at hwrite
  have hbytes := h (doubleOffset ea) (s.memRead .double (unitOf 8 ea)).1 (s.reg d)
  rw [toNat_doubleOffset] at hbytes
  exact ⟨_, _, _, _, rfl, s.readsBus_memRead .double _, s.memRead_mem _ _, BitVec.isLt _, hbytes, hwrite⟩

end

/-- A left store, seen from the unit: byte `q` is a register byte `n - 1 - k` higher. -/
theorem leftStoreSource_eq {n k : Nat} (h : k < n) (q : Nat) :
    (if q ≤ k then some (q + (n - 1) - k) else none) =
      if q + (n - 1 - k) < n then some (q + (n - 1 - k)) else none := by
  by_cases hq : q ≤ k
  · rw [if_pos hq, if_pos (by omega), show q + (n - 1) - k = q + (n - 1 - k) by omega]
  · rw [if_neg hq, if_neg (by omega)]

section
variable (s : State) (d base : Reg) (offset : BitVec 16)

theorem exec_swl : exec (.swl d base offset) s =
    s.mergeStoreWord d base offset (fun k kept taken => mergeRightWord (swlTable k) kept taken) := rfl

theorem exec_swr : exec (.swr d base offset) s =
    s.mergeStoreWord d base offset (fun k kept taken => mergeLeftWord (swrTable k) kept taken) := rfl

theorem exec_sdl : exec (.sdl d base offset) s =
    s.mergeStoreDouble d base offset (fun k kept taken => mergeRightDouble (sdlTable k) kept taken) := rfl

theorem exec_sdr : exec (.sdr d base offset) s =
    s.mergeStoreDouble d base offset (fun k kept taken => mergeLeftDouble (sdrTable k) kept taken) := rfl

theorem swl_completes (hm : s.mem.wf) :
    CompletesMergeStore .word 4 (fun k q => if q ≤ k then some (q + 3 - k) else none) s d
      (s.effectiveAddress base offset) (exec (.swl d base offset) s) :=
  exec_swl s d base offset ▸ mergeStoreWord_completes hm d base offset
    (mergesBytes_right (3 - ·) rfl swlTable_eq fun k q => leftStoreSource_eq k.isLt q)

theorem swr_completes (hm : s.mem.wf) :
    CompletesMergeStore .word 4 (fun k q => if k ≤ q then some (q - k) else none) s d
      (s.effectiveAddress base offset) (exec (.swr d base offset) s) :=
  exec_swr s d base offset ▸ mergeStoreWord_completes hm d base offset
    (mergesBytes_left id rfl swrTable_eq fun _ _ => rfl)

theorem sdl_completes (hm : s.mem.wf) :
    CompletesMergeStore .double 8 (fun k q => if q ≤ k then some (q + 7 - k) else none) s d
      (s.effectiveAddress base offset) (exec (.sdl d base offset) s) :=
  exec_sdl s d base offset ▸ mergeStoreDouble_completes hm d base offset
    (mergesBytes_right (7 - ·) rfl sdlTable_eq fun k q => leftStoreSource_eq k.isLt q)

theorem sdr_completes (hm : s.mem.wf) :
    CompletesMergeStore .double 8 (fun k q => if k ≤ q then some (q - k) else none) s d
      (s.effectiveAddress base offset) (exec (.sdr d base offset) s) :=
  exec_sdr s d base offset ▸ mergeStoreDouble_completes hm d base offset
    (mergesBytes_left id rfl sdrTable_eq fun _ _ => rfl)

end

/-- Each row of the table completes as its own columns say. -/
theorem mergeStores_complete : ∀ row ∈ mergeStores, ∀ s d base offset, s.mem.wf →
    CompletesMergeStore row.width row.bytes row.source s d (s.effectiveAddress base offset)
      (exec (row.instr d base offset) s) := by
  unfold mergeStores
  simp only [List.forall_mem_cons]
  exact ⟨swl_completes, swr_completes, sdl_completes, sdr_completes, by simp⟩

theorem mergeStores_decode : ∀ row ∈ mergeStores, ∀ w, opField w = row.op →
    decode w = .ok (accessInstr row.instr w) := by
  unfold mergeStores
  simp only [List.forall_mem_cons]
  refine ⟨?_, ?_, ?_, ?_, by simp⟩ <;>
  · intro w hw
    rw [decode_of_opField (by simp [hw])]
    simp [decodePrimary, hw, accessInstr]

/-- Settles O44: each row's instruction completes as its merge table says. -/
theorem unalignedStores : Obligations.UnalignedStores := fun row hrow w s hm hop =>
  ⟨mergeStores_decode row hrow w hop, mergeStores_complete row hrow s (rtField w) (rsField w) (immField w) hm⟩

/-! ### The idiom (R169) -/

/-- In every state that agrees with `s` on `x[base]` and memory, `i` puts into `x[d]` the bytes of the datum of `n` bytes
at cell `a` that it covers, and keeps the others. -/
def LoadsPart (i : Instr) (s : State) (d base : Reg) (n : Nat) (extend : Nat → DWord) (a : Nat) (covers : Nat → Prop) :
    Prop :=
  ∀ t : State, t.reg base = s.reg base → SameMem s t → ∃ u v, exec i t = .next u ∧ v < 2 ^ (8 * n) ∧
    (∀ j, j < n → covers j → byteOf v j = (s.mem.read (a + j)).toNat) ∧
    (∀ j, j < n → ¬ covers j → byteOf v j = byteOf (t.reg d).toNat j) ∧ WroteLow d (extend v) t u ∧ SameMem t u

/-- A left/right load loads a part of the datum that its source places at `a`. -/
theorem loadsPart_of_completes {width : Width} {n : Nat} {source : Nat → Nat → Option Nat} {extend : Nat → DWord}
    {i : Instr} {s : State} {d base : Reg} {offset : BitVec 16} {r : Region} {o a k : Nat} (hn : n = 4 ∨ n = 8)
    (h : ∀ t, CompletesMergeLoad width n source extend t d (t.effectiveAddress base offset) (exec i t))
    (hroute : route (s.effectiveAddress base offset) = .array r o)
    (hk : (s.effectiveAddress base offset).toNat % n = k)
    (hsource : ∀ j q, j < n → source k j = some q → q < n ∧ a + j + k = cellOf r o + q) :
    LoadsPart i s d base n extend a fun j => source k j ≠ none := by
  intro t hbase hmem
  obtain ⟨u, m, v, hexec, hread, hv, hbytes, hwrote, -, hkept⟩ := h t
  have hea : t.effectiveAddress base offset = s.effectiveAddress base offset := by
    simp only [State.effectiveAddress, State.word_eq, hbase]
  rw [hea, hk] at hbytes
  rw [hea] at hread
  obtain ⟨o', hunit, ho⟩ := route_unitOf hn hroute
  obtain ⟨rfl, -, -⟩ := hread.array r o' hunit
  refine ⟨u, v, hexec, hv, fun j hj hcov => ?_, fun j hj hcov => ?_, hwrote, hkept⟩
  · obtain ⟨q, hq⟩ := Option.ne_none_iff_exists'.1 hcov
    obtain ⟨hlt, hplace⟩ := hsource j q hj hq
    have hcell : cellOf r o' + q = a + j := by unfold cellOf at hplace ⊢; omega
    rw [hbytes j hj, hq, mergedByte, byteOf_leValue _ _ hlt, hcell, hmem]
  · rw [hbytes j hj, not_not.1 hcov, mergedByte]

theorem rightSource_eq_some {n k j q : Nat} (h : rightSource n k j = some q) : q < n ∧ q = j + k := by
  unfold rightSource at h
  split at h
  · next hlt =>
    obtain rfl := Option.some.inj h
    exact ⟨hlt, rfl⟩
  · cases h

theorem leftSource_eq_some {n k j q : Nat} (hk : k < n) (hj : j < n) (h : leftSource n k j = some q) :
    q < n ∧ q + (n - 1) = j + k := by
  unfold leftSource at h
  split at h
  · obtain rfl := Option.some.inj h
    omega
  · cases h

/-- A right load at offset `k` and a left load `n - 1` bytes further up, in the same unit or the next, leave no register
byte out. -/
theorem sources_cover {n k : Nat} (hn : n = 4 ∨ n = 8) (hk : k < n) (j : Nat) :
    rightSource n k j ≠ none ∨ leftSource n ((k + (n - 1)) % n) j ≠ none := by
  by_cases hj : j + k < n
  · exact .inl (by simp [rightSource, hj])
  · have hle : n - 1 ≤ j + (k + (n - 1)) % n := by obtain rfl | rfl := hn <;> omega
    exact .inr (by simp [leftSource, hle])

/-- Two loads that together cover the datum load it, in this order. -/
theorem pairLoads_of_parts {i i' : Instr} {s : State} {d base : Reg} {n a : Nat} {extend : Nat → DWord}
    {covers covers' : Nat → Prop} (hd : d ≠ 0#5) (hbase : d ≠ base) (hn : n ≤ 8)
    (hextend : ∀ v j, v < 2 ^ (8 * n) → j < n → byteOf (extend v).toNat j = byteOf v j)
    (h : LoadsPart i s d base n extend a covers) (h' : LoadsPart i' s d base n extend a covers')
    (hcover : ∀ j, j < n → covers j ∨ covers' j) : PairLoads i i' s d (extend (leValue s.mem a n)) := by
  obtain ⟨t, v, hexec, hv, hnew, -, hwrote, hmem⟩ := h s rfl (sameMem_refl s)
  obtain ⟨u, v', hexec', hv', hnew', hold', hwrote', -⟩ := h' t (hwrote.others base hbase.symm) hmem
  have hlow : ∀ j, j < n → byteOf (t.reg d).toNat j = byteOf v j := fun j hj => by
    rw [← hextend v j hv hj, ← hwrote.value hd, byteOf_toNat, byteOf_toNat,
      BitVec.extractLsb'_setWidth_of_le (by omega)]
  have hall : ∀ j, j < n → byteOf v' j = (s.mem.read (a + j)).toNat := fun j hj => by
    by_cases hc : covers' j
    · exact hnew' j hj hc
    · rw [hold' j hj hc, hlow j hj, hnew j hj ((hcover j hj).resolve_right hc)]
  exact ⟨t, u, hexec, hexec', by rw [hwrote'.value hd, ← mod_eq_leValue hall, Nat.mod_eq_of_lt hv']⟩

/-- The right load at the first byte of a datum and the left load at its last byte load it, in either order. -/
theorem pairLoads_right_left {width : Width} {n : Nat} {extend : Nat → DWord} {right left : Instr} {s : State}
    {d base : Reg} {first last : BitVec 16} {r : Region} {o : Nat} (hn : n = 4 ∨ n = 8)
    (hextend : ∀ v j, v < 2 ^ (8 * n) → j < n → byteOf (extend v).toNat j = byteOf v j)
    (hright : ∀ t,
      CompletesMergeLoad width n (rightSource n) extend t d (t.effectiveAddress base first) (exec right t))
    (hleft : ∀ t, CompletesMergeLoad width n (leftSource n) extend t d (t.effectiveAddress base last) (exec left t))
    (hd : d ≠ 0#5) (hbase : d ≠ base) (hfirst : route (s.effectiveAddress base first) = .array r o)
    (hlast : route (s.effectiveAddress base last) = .array r (o + (n - 1)))
    (hea : s.effectiveAddress base last = s.effectiveAddress base first + BitVec.ofNat 32 (n - 1)) :
    PairLoads right left s d (extend (leValue s.mem (cellOf r o) n)) ∧
      PairLoads left right s d (extend (leValue s.mem (cellOf r o) n)) := by
  obtain ⟨k, hk⟩ : ∃ k, (s.effectiveAddress base first).toNat % n = k := ⟨_, rfl⟩
  have hpos : 0 < n := by omega
  have hk' : (s.effectiveAddress base last).toNat % n = (k + (n - 1)) % n := by
    rw [hea, BitVec.toNat_add, BitVec.toNat_ofNat]
    obtain rfl | rfl := hn <;> omega
  have hpartR := loadsPart_of_completes (a := cellOf r o) hn hright hfirst hk fun j q _ hq => by
    obtain ⟨hlt, rfl⟩ := rightSource_eq_some hq
    exact ⟨hlt, by omega⟩
  have hpartL := loadsPart_of_completes (a := cellOf r o) hn hleft hlast hk' fun j q hj hq => by
    obtain ⟨hlt, hplace⟩ := leftSource_eq_some (Nat.mod_lt _ hpos) hj hq
    exact ⟨hlt, by unfold cellOf; omega⟩
  have hcover := sources_cover hn (hk ▸ Nat.mod_lt _ hpos)
  have hle : n ≤ 8 := by omega
  exact ⟨pairLoads_of_parts hd hbase hle hextend hpartR hpartL fun j _ => hcover j,
    pairLoads_of_parts hd hbase hle hextend hpartL hpartR fun j _ => (hcover j).symm⟩

/-- The sign-extension leaves the bytes of the word alone. -/
theorem byteOf_signExtend {v j : Nat} (hv : v < 2 ^ (8 * 4)) (hj : j < 4) :
    byteOf ((BitVec.ofNat 32 v).signExtend 64).toNat j = byteOf v j := by
  have hextract : ((BitVec.ofNat 32 v).signExtend 64).extractLsb' (8 * j) 8 =
      (BitVec.ofNat 32 v).extractLsb' (8 * j) 8 := by
    apply BitVec.eq_of_getLsbD_eq
    intro i hi
    have hlt : 8 * j + i < 32 := by omega
    simp only [BitVec.getLsbD_extractLsb', BitVec.getLsbD_signExtend, if_pos hlt, hi, decide_true, Bool.true_and,
      decide_eq_true (show 8 * j + i < 64 by omega)]
  rw [byteOf_toNat, hextract, ← byteOf_toNat, BitVec.toNat_ofNat, Nat.mod_eq_of_lt hv]

/-- Settles O45: the words by `LWR` and `LWL`, the doublewords by `LDR` and `LDL`, which cover the datum together. -/
theorem unalignedIdiom : Obligations.UnalignedIdiom := by
  intro s d base first last r o hd hbase hfirst
  constructor <;> intro hea hlast
  · exact pairLoads_right_left (.inl rfl) (fun v j => byteOf_signExtend) (fun t => lwr_completes t d base first)
      (fun t => lwl_completes t d base last) hd hbase hfirst hlast hea
  · exact pairLoads_right_left (.inr rfl)
      (fun v j hv _ => by rw [BitVec.toNat_ofNat, Nat.mod_eq_of_lt hv]) (fun t => ldr_completes t d base first)
      (fun t => ldl_completes t d base last) hd hbase hfirst hlast hea

end Sys2Proof.Machine
end

section
/-! PROOFS. Arithmetic, logical, compare and shift instructions (`44_alu.md` R180 to R219). Every one is a single 64-bit
register write followed by outcome Next. So two facts settle a row of the tables: what its words decode to, and that the
value written is the row's result. -/

namespace Sys2Proof.Machine

open Sys2Proof.Claims

/-! ### The value written -/

/-- The instruction writes `result` of its two source registers to its first register, and completes. -/
def ComputesOnRegs (instr : Reg → Reg → Reg → Instr) (result : QWord → QWord → DWord) : Prop :=
  ∀ d a b s, exec (instr d a b) s = (s.setLow d (result (s.reg a) (s.reg b))).finish .next

/-- The instruction writes `result` of its source register and its immediate operand to its first register, and
completes. -/
def ComputesOnImmediate {n : Nat} (instr : Reg → Reg → BitVec n → Instr) (result : QWord → BitVec n → DWord) : Prop :=
  ∀ d a imm s, exec (instr d a imm) s = (s.setLow d (result (s.reg a) imm)).finish .next

/-- Two values written, when they are equal, complete alike. -/
theorem finish_setLow_congr {v v' : DWord} (h : v = v') (s : State) (d : Reg) :
    (s.setLow d v).finish .next = (s.setLow d v').finish .next := by rw [h]

/-- The value of a comparison (R201 to R204). -/
theorem boolValue_decide (p : Prop) [Decidable p] : boolValue (decide p) = if p then 1#64 else 0#64 := by
  simp only [boolValue, decide_eq_true_iff]

/-- The amount of a variable shift (R208 to R210, R217 to R219): low bits of a part of a register are its value modulo
a power of two. -/
theorem toNat_shiftAmount {m n : Nat} (v : QWord) (h : n ≤ m) :
    ((v.setWidth m).extractLsb' 0 n).toNat = v.toNat % 2 ^ n := by
  rw [BitVec.extractLsb'_setWidth_of_le (by omega), BitVec.extractLsb'_toNat, Nat.shiftRight_zero]

/-- The word of `LUI` (R200): appending 16 zero bits multiplies. -/
theorem upperImm_eq (imm : BitVec 16) : upperImm imm = BitVec.ofNat 32 (imm.toNat * 65536) := by
  apply BitVec.eq_of_toNat_eq
  rw [upperImm, BitVec.toNat_append, ← Nat.shiftLeft_add_eq_or_of_lt (by decide), Nat.shiftLeft_eq, BitVec.toNat_ofNat,
    BitVec.toNat_ofNat]
  omega

/-! ### Rows of one shape -/

section
variable {e : ThreeReg}

theorem threeRegRule (hexec : ComputesOnRegs e.instr e.result)
    (hdecode : ∀ w, opField w = 0x00#6 → functField w = e.funct →
      decode w = .ok (e.instr (rdField w) (rsField w) (rtField w))) : ThreeRegRule e := fun w s hop hf =>
  ⟨hdecode w hop hf, completesWithLow (hexec _ _ _ s)⟩

theorem variableShiftRule (hexec : ComputesOnRegs e.instr e.result)
    (hdecode : ∀ w, opField w = 0x00#6 → functField w = e.funct →
      decode w = .ok (e.instr (rdField w) (rtField w) (rsField w))) : VariableShiftRule e := fun w s hop hf =>
  ⟨hdecode w hop hf, completesWithLow (hexec _ _ _ s)⟩

end

theorem immediateShiftRule {e : ImmediateShift} (hexec : ComputesOnImmediate e.instr e.result)
    (hdecode : ∀ w, functField w = e.funct → decodeSpecial w = .ok (e.instr (rdField w) (rtField w) (saField w))) :
    ImmediateShiftRule e := by
  intro w s hw hop hf
  refine ⟨?_, completesWithLow (hexec _ _ _ s)⟩
  rw [decode_of_ne_zero hw, ← hdecode w hf]
  simp [decodePrimary, hop]

theorem immediateRule {e : Immediate} (hexec : ComputesOnImmediate e.instr e.result)
    (hdecode : ∀ w, opField w = e.op → decode w = .ok (e.instr (rtField w) (rsField w) (immField w))) :
    ImmediateRule e := fun w s hop =>
  ⟨hdecode w hop, completesWithLow (hexec _ _ _ s)⟩

/-! ### What the words of the rows decode to (`30_encoding.md` R75, R77) -/

theorem threeReg_decode : ∀ e ∈ wordThreeReg ++ doubleThreeReg ++ logicalThreeReg ++ setLessThreeReg, ∀ w,
    opField w = 0x00#6 → functField w = e.funct →
      decode w = .ok (e.instr (rdField w) (rsField w) (rtField w)) := by
  simp only [wordThreeReg, doubleThreeReg, logicalThreeReg, setLessThreeReg, List.cons_append, List.nil_append,
    List.forall_mem_cons]
  refine ⟨?_, ?_, ?_, ?_, ?_, ?_, ?_, ?_, ?_, ?_, ?_, ?_, ?_, ?_, by simp⟩ <;>
  · intro w hop hf
    rw [decode_of_special hop (by simp [hf])]
    simp [decodeSpecial, hf]

theorem variableShifts_decode : ∀ e ∈ wordVariableShifts ++ doubleVariableShifts, ∀ w,
    opField w = 0x00#6 → functField w = e.funct →
      decode w = .ok (e.instr (rdField w) (rtField w) (rsField w)) := by
  simp only [wordVariableShifts, doubleVariableShifts, List.cons_append, List.nil_append, List.forall_mem_cons]
  refine ⟨?_, ?_, ?_, ?_, ?_, ?_, by simp⟩ <;>
  · intro w hop hf
    rw [decode_of_special hop (by simp [hf])]
    simp [decodeSpecial, hf]

theorem immediateShifts_decode : ∀ e ∈ wordShifts ++ doubleShifts, ∀ w,
    functField w = e.funct → decodeSpecial w = .ok (e.instr (rdField w) (rtField w) (saField w)) := by
  simp only [wordShifts, doubleShifts, List.cons_append, List.nil_append, List.forall_mem_cons]
  refine ⟨?_, ?_, ?_, ?_, ?_, ?_, ?_, ?_, ?_, by simp⟩ <;>
  · intro w hf
    simp [decodeSpecial, hf]

theorem immediate_decode : ∀ e ∈ wordImmediate ++ doubleImmediate ++ logicalImmediate ++ setLessImmediate, ∀ w,
    opField w = e.op → decode w = .ok (e.instr (rtField w) (rsField w) (immField w)) := by
  simp only [wordImmediate, doubleImmediate, logicalImmediate, setLessImmediate, List.cons_append, List.nil_append,
    List.forall_mem_cons]
  refine ⟨?_, ?_, ?_, ?_, ?_, ?_, ?_, ?_, ?_, by simp⟩ <;>
  · intro w hop
    rw [decode_of_opField (by simp [hop])]
    simp [decodePrimary, hop]

/-! ### The results of the rows -/

/-- Arithmetic and logic (R181 to R184, R187 to R190, R193 to R196): the model's expression is the row's. -/
theorem threeReg_compute : ∀ e ∈ wordThreeReg ++ doubleThreeReg ++ logicalThreeReg,
    ComputesOnRegs e.instr e.result := by
  simp only [wordThreeReg, doubleThreeReg, logicalThreeReg, List.cons_append, List.nil_append, List.forall_mem_cons]
  refine ⟨?_, ?_, ?_, ?_, ?_, ?_, ?_, ?_, ?_, ?_, ?_, ?_, by simp⟩ <;> exact fun _ _ _ _ => rfl

/-- The same with an immediate (R185, R186, R191, R192, R197 to R199). -/
theorem immediate_compute : ∀ e ∈ wordImmediate ++ doubleImmediate ++ logicalImmediate,
    ComputesOnImmediate e.instr e.result := by
  simp only [wordImmediate, doubleImmediate, logicalImmediate, List.cons_append, List.nil_append,
    List.forall_mem_cons]
  refine ⟨?_, ?_, ?_, ?_, ?_, ?_, ?_, by simp⟩ <;> exact fun _ _ _ _ => rfl

theorem setLessThreeReg_compute : ∀ e ∈ setLessThreeReg, ComputesOnRegs e.instr e.result := by
  simp only [setLessThreeReg, List.forall_mem_cons]
  exact ⟨fun _ _ _ _ => finish_setLow_congr (boolValue_decide _) _ _,
    fun _ _ _ _ => finish_setLow_congr (boolValue_decide _) _ _, by simp⟩

theorem setLessImmediate_compute : ∀ e ∈ setLessImmediate, ComputesOnImmediate e.instr e.result := by
  simp only [setLessImmediate, List.forall_mem_cons]
  exact ⟨fun _ _ _ _ => finish_setLow_congr (boolValue_decide _) _ _,
    fun _ _ _ _ => finish_setLow_congr (boolValue_decide _) _ _, by simp⟩

theorem immediateShifts_compute : ∀ e ∈ wordShifts ++ doubleShifts, ComputesOnImmediate e.instr e.result := by
  simp only [wordShifts, doubleShifts, List.cons_append, List.nil_append, List.forall_mem_cons]
  refine ⟨?_, ?_, ?_, ?_, ?_, ?_, ?_, ?_, ?_, by simp⟩ <;> exact fun _ _ _ _ => rfl

/-- A shift by the low five bits of a register (R208 to R210). -/
theorem setWord_shiftAmount (shift : Word → Nat → Word) (d a b : Reg) (s : State) :
    (s.setWord d (shift (s.word a) ((s.word b).extractLsb' 0 5).toNat)).finish .next =
      (s.setLow d ((shift ((s.reg a).setWidth 32) ((s.reg b).toNat % 32)).signExtend 64)).finish .next := by
  rw [State.word_eq s b, toNat_shiftAmount _ (by decide)]
  rfl

/-- A shift by the low six bits of a register (R217 to R219). -/
theorem setLow_shiftAmount (shift : DWord → Nat → DWord) (d a b : Reg) (s : State) :
    (s.setLow d (shift (s.low a) ((s.low b).extractLsb' 0 6).toNat)).finish .next =
      (s.setLow d (shift ((s.reg a).setWidth 64) ((s.reg b).toNat % 64))).finish .next := by
  rw [State.low_eq s b, toNat_shiftAmount _ (by decide)]
  rfl

theorem variableShifts_compute : ∀ e ∈ wordVariableShifts ++ doubleVariableShifts,
    ComputesOnRegs e.instr e.result := by
  simp only [wordVariableShifts, doubleVariableShifts, List.cons_append, List.nil_append, List.forall_mem_cons]
  exact ⟨setWord_shiftAmount shiftLeftWord, setWord_shiftAmount shiftRightWord, setWord_shiftAmount shiftArithWord,
    setLow_shiftAmount shiftLeftDouble, setLow_shiftAmount shiftRightDouble, setLow_shiftAmount shiftArithDouble,
    by simp⟩

/-! ### The rules of the tables

A namespace of their own keeps the names of these theorems apart from those of the tables of shifts. -/

namespace Alu

/-- Settles O46: word arithmetic is a register write of the row's result. -/
theorem wordArithmetic : Obligations.WordArithmetic :=
  ⟨fun e he => threeRegRule (threeReg_compute e (by simp [he])) (threeReg_decode e (by simp [he])),
    fun e he => immediateRule (immediate_compute e (by simp [he])) (immediate_decode e (by simp [he]))⟩

/-- Settles O47: doubleword arithmetic is a register write of the row's result. -/
theorem doubleArithmetic : Obligations.DoubleArithmetic :=
  ⟨fun e he => threeRegRule (threeReg_compute e (by simp [he])) (threeReg_decode e (by simp [he])),
    fun e he => immediateRule (immediate_compute e (by simp [he])) (immediate_decode e (by simp [he]))⟩

/-- Settles O48: a logical operation is a register write of the row's result; the zeros `LUI` appends are the factor
65536. -/
theorem logicalOperations : Obligations.LogicalOperations := by
  refine ⟨fun e he => threeRegRule (threeReg_compute e (by simp [he])) (threeReg_decode e (by simp [he])),
    fun e he => immediateRule (immediate_compute e (by simp [he])) (immediate_decode e (by simp [he])),
    fun w s hop => ⟨?_, completesWithLow (upperImm_eq (immField w) ▸ rfl)⟩⟩
  rw [decode_of_opField (by simp [hop])]
  simp [decodePrimary, hop]

/-- Settles O49: the comparison decides which of 1 and 0 is written. -/
theorem setOnLessThan : Obligations.SetOnLessThan :=
  ⟨fun e he => threeRegRule (setLessThreeReg_compute e he) (threeReg_decode e (by simp [he])),
    fun e he => immediateRule (setLessImmediate_compute e he) (immediate_decode e (by simp [he]))⟩

/-- Settles O50: the amount is the field `sa`, or the low five bits of `x[rs]`. -/
theorem wordShifts : Obligations.WordShifts :=
  ⟨fun e he => immediateShiftRule (immediateShifts_compute e (by simp [he])) (immediateShifts_decode e (by simp [he])),
    fun e he => variableShiftRule (variableShifts_compute e (by simp [he])) (variableShifts_decode e (by simp [he]))⟩

/-- Settles O51: the amount is the field `sa`, or `sa + 32`, or the low six bits of `x[rs]`. -/
theorem doubleShifts : Obligations.DoubleShifts :=
  ⟨fun e he => immediateShiftRule (immediateShifts_compute e (by simp [he])) (immediateShifts_decode e (by simp [he])),
    fun e he => variableShiftRule (variableShifts_compute e (by simp [he])) (variableShifts_decode e (by simp [he]))⟩

end Alu

end Sys2Proof.Machine
end

section
/-! PROOFS. Multiply, divide and the moves of the pairs, both units (`45_muldiv.md` R240 to R257). A pair is written in
one way, `writePair`, which leaves all but that pair alone. What remains of a multiply or a divide is arithmetic: the
halves of the exact product, and the truncated quotient with its remainder. -/

namespace Sys2Proof.Machine

open Sys2Proof.Claims

/-! ### Writing a pair (R240) -/

/-- The write of a pair, in the unit the instruction belongs to. -/
def State.writePair (s : State) (second : Bool) (lo hi : DWord) : State :=
  if second then s.setPair1 lo hi else s.setPair lo hi

/-- All but the general registers and the pairs is as before. -/
structure DataFrame (s u : State) : Prop where
  pc : SamePc s u
  slots : SameSlots s u
  mem : SameMem s u
  ports : SamePorts s u
  latches : SameLatches s u

section
variable {s u t : State} {second : Bool} {lo hi : DWord}

theorem dataFrame_writePair (s : State) (second : Bool) (lo hi : DWord) :
    DataFrame s (s.writePair second lo hi) := by
  cases second <;> exact ⟨samePc_refl s, sameSlots_refl s, sameMem_refl s, samePorts_refl s, sameLatches_refl s⟩

theorem sameGpr_writePair : SameGpr s (s.writePair second lo hi) := by
  cases second <;> exact sameGpr_refl s

theorem wrotePair_writePair : WrotePair second lo hi s (s.writePair second lo hi) := by
  cases second <;> exact ⟨rfl, rfl, rfl, rfl⟩

theorem DataFrame.setLow (h : DataFrame s u) (d : Reg) (v : DWord) : DataFrame s (u.setLow d v) where
  pc := by simpa [SamePc] using h.pc
  slots n := by simpa using h.slots n
  mem a := by simpa using h.mem a
  ports := by simpa [SamePorts] using h.ports
  latches := by simpa [SameLatches] using h.latches

/-- What follows the writes of the pair keeps it. -/
theorem wrotePair_trans (h : WrotePair second lo hi s u) (hpairs : SamePairs u t) : WrotePair second lo hi s t := by
  obtain ⟨hhi, hlo, hhi1, hlo1⟩ := hpairs
  unfold WrotePair at h ⊢
  rwa [hhi, hlo, hhi1, hlo1]

/-- A pair written, and outcome Next. -/
theorem wrotePair_advance {p q : DWord × DWord} (h : p = q) :
    WrotePair second q.1 q.2 s (s.writePair second p.1 p.2).advance :=
  h ▸ wrotePair_trans wrotePair_writePair (samePairs_advance (samePairs_refl _))

/-- A register write, seen from before a step that kept the registers. -/
theorem wroteLow_of_sameGpr {d : Reg} {v : DWord} (hgpr : SameGpr s u) (h : WroteLow d v u t) : WroteLow d v s t where
  value := h.value
  upper hd := by rw [h.upper hd, hgpr]
  zero := h.zero
  others r hr := by rw [h.others r hr, hgpr]

end

/-! ### What the words decode to (`30_encoding.md` R77, R81) -/

/-- The words of MMI (R81). -/
theorem decode_of_mmi {w : Word} (h : opField w = 0x1C#6) : decode w = decodeMmi w := by
  rw [decode_of_opField (by simp [h])]
  simp [decodePrimary, h]

/-! ### Multiply (R242, R243, R246, R247) -/

theorem productLow_ofInt (p : Int) : productLow (BitVec.ofInt 64 p) = s32 p := by
  have hlow : (BitVec.ofInt 64 p).setWidth 32 = BitVec.ofInt 32 p := by
    apply BitVec.eq_of_toNat_eq
    simp only [BitVec.toNat_setWidth, BitVec.toNat_ofInt]
    omega
  rw [productLow, hlow]
  rfl

theorem productHigh_ofInt (p : Int) : productHigh (BitVec.ofInt 64 p) = s32 (p / 2 ^ 32) := by
  have hhigh : (BitVec.ofInt 64 p).extractLsb' 32 32 = BitVec.ofInt 32 (p / 2 ^ 32) := by
    apply BitVec.eq_of_toNat_eq
    simp only [BitVec.extractLsb'_toNat, BitVec.toNat_ofInt, Nat.shiftRight_eq_div_pow]
    omega
  rw [productHigh, hhigh]
  rfl

theorem productUnsigned_eq_ofInt (a b : Word) :
    productUnsigned a b = BitVec.ofInt 64 ((a.toNat : Int) * b.toNat) := by
  rw [← Int.natCast_mul, BitVec.ofInt_natCast]
  rfl

/-- The halves of a product to the pair of the unit, and the low half to `x[d]` too. -/
def State.writeProduct (s : State) (second : Bool) (d : Reg) (p : DWord) : State :=
  (s.writePair second (productLow p) (productHigh p)).setLow d (productLow p)

theorem dataFrame_writeProduct (s : State) (second : Bool) (d : Reg) (p : DWord) :
    DataFrame s (s.writeProduct second d p) :=
  (dataFrame_writePair s second _ _).setLow d _

theorem wrote_writeProduct_advance (s : State) (second : Bool) (d : Reg) (p : Int) :
    WrotePair second (s32 p) (s32 (p / 2 ^ 32)) s (s.writeProduct second d (BitVec.ofInt 64 p)).advance ∧
      WroteLow d (s32 p) s (s.writeProduct second d (BitVec.ofInt 64 p)).advance := by
  rw [State.writeProduct, productLow_ofInt, productHigh_ofInt]
  exact ⟨wrotePair_trans wrotePair_writePair (by simp [SamePairs]),
    wroteLow_of_sameGpr sameGpr_writePair (wroteLow_advance (wroteLow_setLow _ _ _))⟩

theorem multiplyRule {instr : Reg → Reg → Reg → Instr} {c : PairCode} {number : Word → Word → Int}
    {product : Word → Word → DWord}
    (hexec : ∀ d a b s,
      exec (instr d a b) s = (s.writeProduct c.second d (product (s.word a) (s.word b))).finish .next)
    (hproduct : ∀ a b, product a b = BitVec.ofInt 64 (number a b))
    (hdecode : ∀ w, opField w = c.op → functField w = c.funct →
      decode w = .ok (instr (rdField w) (rsField w) (rtField w))) : MultiplyRule instr c number := by
  intro w s hop hf
  have h := hexec (rdField w) (rsField w) (rtField w) s
  rw [hproduct] at h
  have hframe := dataFrame_writeProduct s c.second (rdField w)
  refine ⟨hdecode w hop hf, _, h, nextPc_advance (hframe _).pc, ?_, sameSlots_advance (hframe _).slots,
    sameMem_advance (hframe _).mem, samePorts_advance (hframe _).ports, sameLatches_advance (hframe _).latches⟩
  rintro p rfl
  exact wrote_writeProduct_advance s c.second (rdField w) _

/-- Settles O52: a multiply writes the exact product reduced to 64 bits, whose halves are those of the product. -/
theorem multiply : Obligations.Multiply := by
  refine ⟨multiplyRule (fun _ _ _ _ => rfl) (fun _ _ => rfl) ?_,
    multiplyRule (fun _ _ _ _ => rfl) productUnsigned_eq_ofInt ?_,
    multiplyRule (fun _ _ _ _ => rfl) (fun _ _ => rfl) ?_,
    multiplyRule (fun _ _ _ _ => rfl) productUnsigned_eq_ofInt ?_⟩ <;>
  · intro w hop hf
    simp [decode_of_special, decode_of_mmi, decodeSpecial, decodeMmi, hop, hf]

/-! ### Divide (R244, R245, R248, R249) -/

/-- `(LO, HI)` of a division: in the corner `DIV0` of the operands, else the quotient and the remainder it leaves. -/
structure DividesAs (kind : DivKind) (corner : Word → Word → Prop) (value : Word → Int) (quotient : Int → Int → Int)
    (result : Word → Word → DWord × DWord) : Prop where
  inCorner : ∀ {n d}, corner n d → result n d = Config.div0 kind n d
  outside : ∀ {n d}, ¬ corner n d →
    result n d = (s32 (quotient (value n) (value d)), s32 (value n - quotient (value n) (value d) * value d))

/-- The corners of R241 as numbers. -/
theorem signedCorner_iff (n d : Word) :
    (d.toInt = 0 ∨ (n.toInt = -2147483648 ∧ d.toInt = -1)) ↔ (d = 0#32 ∨ (n = 0x80000000#32 ∧ d = 0xFFFFFFFF#32)) := by
  simp only [← BitVec.toInt_inj]
  rfl

theorem quotientSigned_dividesAs :
    DividesAs .signed (fun n d => d.toInt = 0 ∨ (n.toInt = -2147483648 ∧ d.toInt = -1)) BitVec.toInt Int.tdiv
      (quotientSigned Config.div0) where
  inCorner h := if_pos ((signedCorner_iff _ _).1 h)
  outside {n d} h := by
    rw [quotientSigned, if_neg (mt (signedCorner_iff n d).2 h), Int.tmod_def, Int.mul_comm d.toInt]
    rfl

theorem quotientUnsigned_dividesAs :
    DividesAs .unsigned (fun _ d => d.toNat = 0) (fun v => v.toNat) Int.tdiv (quotientUnsigned Config.div0) where
  inCorner h := if_pos (BitVec.eq_of_toNat_eq h)
  outside {n d} h := by
    rw [quotientUnsigned, if_neg fun hd => h (congrArg BitVec.toNat hd), ← BitVec.ofInt_natCast, ← BitVec.ofInt_natCast,
      Int.ofNat_tdiv, Int.ofNat_tmod, Int.tmod_def, Int.mul_comm (d.toNat : Int)]
    rfl

theorem divideRule {instr : Reg → Reg → Instr} {c : PairCode} {kind : DivKind} {corner : Word → Word → Prop}
    {value : Word → Int} {quotient : Int → Int → Int} {result : Word → Word → DWord × DWord}
    (hexec : ∀ a b s, exec (instr a b) s =
      (s.writePair c.second (result (s.word a) (s.word b)).1 (result (s.word a) (s.word b)).2).finish .next)
    (hresult : DividesAs kind corner value quotient result)
    (hdecode : ∀ w, opField w = c.op → functField w = c.funct → decode w = .ok (instr (rsField w) (rtField w))) :
    DivideRule instr c kind corner value quotient := by
  intro w s hop hf
  have hframe := dataFrame_writePair s c.second
  refine ⟨hdecode w hop hf, _, hexec _ _ s, nextPc_advance (hframe _ _).pc, ?_, sameGpr_advance sameGpr_writePair,
    sameSlots_advance (hframe _ _).slots, sameMem_advance (hframe _ _).mem, samePorts_advance (hframe _ _).ports,
    sameLatches_advance (hframe _ _).latches⟩
  rintro n d rfl rfl
  refine ⟨fun h => wrotePair_advance (hresult.inCorner h), ?_⟩
  rintro h q rfl
  exact wrotePair_advance (hresult.outside h)

/-- Settles O53: the corners are those of the model, and outside them the remainder is what the quotient leaves. -/
theorem divide : Obligations.Divide := by
  refine ⟨divideRule (fun _ _ _ => rfl) quotientSigned_dividesAs ?_,
    divideRule (fun _ _ _ => rfl) quotientUnsigned_dividesAs ?_,
    divideRule (fun _ _ _ => rfl) quotientSigned_dividesAs ?_,
    divideRule (fun _ _ _ => rfl) quotientUnsigned_dividesAs ?_⟩ <;>
  · intro w hop hf
    simp [decode_of_special, decode_of_mmi, decodeSpecial, decodeMmi, hop, hf]

/-! ### Moves (R250 to R257) -/

/-- An instruction whose meaning is one write of a pair and outcome Next. -/
theorem completesWithPairs {i : Instr} {s : State} (second : Bool) (lo hi : DWord)
    (h : exec i s = (s.writePair second lo hi).finish .next) :
    CompletesWithPairs i s (s.writePair second lo hi).hi (s.writePair second lo hi).lo (s.writePair second lo hi).hi1
      (s.writePair second lo hi).lo1 :=
  have hframe := dataFrame_writePair s second lo hi
  ⟨_, h, nextPc_advance hframe.pc, by simp, sameGpr_advance sameGpr_writePair, sameSlots_advance hframe.slots,
    sameMem_advance hframe.mem, samePorts_advance hframe.ports, sameLatches_advance hframe.latches⟩

/-- Settles O54: a move from a pair is one register write; a move to a pair writes one register of it anew and the other
as it was. -/
theorem pairMoves : Obligations.PairMoves := by
  intro w s
  refine ⟨fun h => ⟨?_, completesWithLow rfl⟩, fun h => ⟨?_, completesWithLow rfl⟩,
    fun h => ⟨?_, completesWithLow rfl⟩, fun h => ⟨?_, completesWithLow rfl⟩,
    fun h => ⟨?_, completesWithPairs false s.lo (s.low (rsField w)) rfl⟩,
    fun h => ⟨?_, completesWithPairs false (s.low (rsField w)) s.hi rfl⟩,
    fun h => ⟨?_, completesWithPairs true s.lo1 (s.low (rsField w)) rfl⟩,
    fun h => ⟨?_, completesWithPairs true (s.low (rsField w)) s.hi1 rfl⟩⟩ <;>
  · obtain ⟨hop, hf⟩ := h
    simp [decode_of_special, decode_of_mmi, decodeSpecial, decodeMmi, hop, hf]

end Sys2Proof.Machine
end

section
/-! PROOFS. Conditional moves (`46_move_cond.md` R270 to R272). The condition chooses one of the two ways to complete that
other instructions have: one 64-bit register write, or nothing. -/

namespace Sys2Proof.Machine

/-! ### The two ways to complete -/

section
variable {s : State} {rd rs rt : Reg}

theorem exec_movz_of_zero (h : (s.reg rt).setWidth 64 = 0#64) :
    exec (.movz rd rs rt) s = (s.setLow rd ((s.reg rs).setWidth 64)).finish .next :=
  congrArg (State.finish · .next) (if_pos h)

theorem exec_movz_of_ne_zero (h : (s.reg rt).setWidth 64 ≠ 0#64) : exec (.movz rd rs rt) s = s.finish .next :=
  congrArg (State.finish · .next) (if_neg h)

theorem exec_movn_of_ne_zero (h : (s.reg rt).setWidth 64 ≠ 0#64) :
    exec (.movn rd rs rt) s = (s.setLow rd ((s.reg rs).setWidth 64)).finish .next :=
  congrArg (State.finish · .next) (if_neg h)

theorem exec_movn_of_zero (h : (s.reg rt).setWidth 64 = 0#64) : exec (.movn rd rs rt) s = s.finish .next :=
  congrArg (State.finish · .next) (if_pos h)

end

/-- Settles O55: the condition decides whether the instruction is a register write or nothing. -/
theorem conditionalMoves : Obligations.ConditionalMoves := by
  intro w s
  refine ⟨fun h => ⟨?_, fun hz => completesWithLow (exec_movz_of_zero hz),
      fun hnz => completesWithNothing (exec_movz_of_ne_zero hnz)⟩,
    fun h => ⟨?_, fun hnz => completesWithLow (exec_movn_of_ne_zero hnz),
      fun hz => completesWithNothing (exec_movn_of_zero hz)⟩⟩ <;>
  · obtain ⟨hop, hf⟩ := h
    rw [decode_of_special hop (by simp [hf])]
    simp [decodeSpecial, hf]

end Sys2Proof.Machine
end

section
/-! PROOFS. Exceptions, interrupt admission and the system instructions (`60_exceptions.md` R300 to R314,
`47_system_cop0.md` R280 to R295). `entersException_takeException` says what an entry does for every code; a system
instruction is then one slot write, one register write, an entry or nothing, followed by its outcome. -/

namespace Sys2Proof.Machine

open Sys2Proof.Claims

/-! ### Exception entries (R300 to R303) -/

theorem samePorts_takeException (s : State) (code : ExcCode) : SamePorts s (s.takeException code) :=
  ⟨s.takeException_events code, s.takeException_freeIndex code⟩

/-- An entry as the statements of this family see it: `BadVAddr` and the ports are left alone too (R306). -/
theorem takeException_enters (s : State) (code : ExcCode) :
    EntersException s (s.takeException code) (excNumber code) (vectorOffset code) ∧
      (s.takeException code).slot 8#5 = s.slot 8#5 ∧ SamePorts s (s.takeException code) :=
  ⟨entersException_takeException s code, s.slot_takeException_other code (by decide), samePorts_takeException s code⟩

/-- The table of R301 and R302 holds the model's numbers and offsets. -/
theorem exceptionRows_eq : ∀ p ∈ exceptionRows, p.2 = (excNumber p.1, vectorOffset p.1) := by decide

/-- Settles O32: an entry has the number and the offset of its code. -/
theorem takingAnException : Obligations.TakingAnException := by
  intro p hp s
  rw [exceptionRows_eq p hp]
  exact takeException_enters s p.1

/-- Settles O33: outcome Exception is all the instruction does. -/
theorem softwareExceptions : Obligations.SoftwareExceptions := by
  refine fun w s hop => ⟨fun hf => ⟨?_, _, finish_exception s .sys, takeException_enters s .sys⟩,
    fun hf => ⟨?_, _, finish_exception s .bp, takeException_enters s .bp⟩⟩ <;>
  · rw [decode_of_special hop (by simp [hf])]
    simp [decodeSpecial, hf]

/-! ### Interrupt admission (R313, R314) -/

/-- Where an interrupt goes (R302, R303). -/
theorem vectorBase_add_vecInterrupt (status : Word) :
    vectorBase status + Config.vecInterrupt = if status.getLsbD 22 then 0xBFC00400#32 else 0x80000200#32 := by
  unfold vectorBase statusBEV
  split <;> rfl

/-- Settles O15: admission takes the interrupt exception, and on its condition `EXL` is clear. -/
theorem interruptAdmission : Obligations.InterruptAdmission := by
  intro u
  refine ⟨fun h => ?_, fun h => if_neg (mt (interruptAdmitted_iff u).1 h)⟩
  rw [show u.admission = u.takeException .int from if_pos ((interruptAdmitted_iff u).2 h)]
  obtain ⟨-, -, -, hexl, -⟩ := h
  have entry := entersException_takeException u .int
  refine ⟨?_, ?_, ?_, entry.excCode, entry.otherCause, entry.level, rfl, rfl,
    fun n => u.slot_takeException_other .int, entry.registers, entry.pairs, entry.memory,
    samePorts_takeException u .int, entry.latches⟩
  · rw [u.takeException_pc, show statusEXL u.status = false from hexl]
    exact vectorBase_add_vecInterrupt u.status
  · exact entry.epc.trans (if_neg (by rw [hexl]; decide))
  · exact entry.branchDelay.trans (if_neg (by rw [hexl]; decide))

/-! ### `Count` (R325) -/

/-- Settles O16: neither the fetch nor the outcome writes `Count`, the instruction only if it is `MTC0`, and the
bookkeeping adds one. -/
theorem countAdvancesOncePerStep : Obligations.CountAdvancesOncePerStep := by
  intro s t h
  obtain ⟨m, out, u, he, hf, rfl⟩ := step_effect h
  rw [slot_count_bookkeeping, finish_slot hf (by decide)]
  refine ⟨fun rt hdec => ?_, fun hno => ?_⟩
  · rw [he.written rt 9#5 (instrOf_ok hdec), reg_fetch]
  · rw [he.slots 9#5 (by decide) (instrOf_ne_mtc0 hno), slot_fetch s (by decide)]

/-! ### Decoding in COP0 (`30_encoding.md` R79) -/

section
variable {w : Word}

theorem decode_of_cop0 (hop : opField w = 0x10#6) : decode w = decodeCop0 w := by
  rw [decode_of_opField (by simp [hop])]
  simp [decodePrimary, hop]

theorem decode_of_cop0Co {funct : BitVec 6} (h : cop0Co funct w = true) :
    functField w = funct ∧ decode w = decodeCop0Co w := by
  simp only [cop0Co, Bool.and_eq_true, beq_iff_eq] at h
  obtain ⟨⟨hop, hrs⟩, hf⟩ := h
  refine ⟨hf, (decode_of_cop0 hop).trans ?_⟩
  simp [decodeCop0, hrs]

end

/-! ### Instructions without an effect (R288 to R295) -/

/-- What the words of the rows decode to. -/
theorem noEffectWords_decode : ∀ p ∈ noEffectWords, ∀ w, p.1 w = true → decode w = .ok (p.2 w) := by
  simp only [noEffectWords, List.forall_mem_cons]
  refine ⟨?nop, ?sync, ?cache, ?pref, ?tlbr, ?tlbwi, ?tlbwr, ?tlbp, by simp⟩
  case nop =>
    intro w hw
    rw [eq_of_beq hw]
    rfl
  case sync =>
    intro w hw
    obtain ⟨hop, hf⟩ : opField w = 0x00#6 ∧ functField w = 0x0F#6 := by simpa using hw
    rw [decode_of_special hop (by simp [hf])]
    simp [decodeSpecial, hf]
  case cache | pref =>
    intro w hw
    rw [decode_of_opField (by simp [eq_of_beq hw])]
    simp [decodePrimary, eq_of_beq hw]
  all_goals
    intro w hw
    obtain ⟨hf, hdec⟩ := decode_of_cop0Co hw
    rw [hdec]
    simp [decodeCop0Co, hf]

theorem noEffectWords_execute : ∀ p ∈ noEffectWords, ∀ w s, exec (p.2 w) s = s.finish .next := by
  simp only [noEffectWords, List.forall_mem_cons]
  exact ⟨fun _ _ => rfl, fun _ _ => rfl, fun _ _ => rfl, fun _ _ => rfl, fun _ _ => rfl, fun _ _ => rfl,
    fun _ _ => rfl, fun _ _ => rfl, by simp⟩

/-- Settles O56: each row's instruction has outcome Next and no effect before it. -/
theorem noEffectInstructions : Obligations.NoEffectInstructions := fun p hp w s hw =>
  ⟨noEffectWords_decode p hp w hw, completesWithNothing (noEffectWords_execute p hp w s)⟩

/-! ### Privileged moves (R281, R282) -/

/-- An instruction whose meaning is one slot write and outcome Next. -/
theorem completesWithSlot {i : Instr} {s : State} {n : Reg} {v : Word} (h : exec i s = (s.setSlot n v).finish .next) :
    CompletesWithSlot i s n v :=
  ⟨_, h, nextPc_advance (samePc_refl s), by simp,
    sameSlotsBut_advance fun m hm => s.slot_setSlot_of_ne v (by simpa using hm), sameGpr_advance (sameGpr_refl s),
    samePairs_advance (samePairs_refl s), sameMem_advance (sameMem_refl s), samePorts_advance (samePorts_refl s),
    sameLatches_advance (sameLatches_refl s)⟩

/-- Settles O57: `MFC0` is a register write, `MTC0` a slot write, and neither looks at the mode. -/
theorem privilegedMoves : Obligations.PrivilegedMoves := by
  refine fun w s hop => ⟨fun hrs => ⟨?_, completesWithLow rfl⟩, fun hrs => ⟨?_, completesWithSlot rfl⟩⟩ <;>
  · rw [decode_of_cop0 hop]
    simp [decodeCop0, hrs]

/-! ### `ERET` (R285) -/

/-- All that `ERET` writes before its outcome is `Status`. -/
theorem State.leaveLevel_eq (s : State) :
    s.leaveLevel =
      s.setStatus (if statusERL s.status then clearStatusERL s.status else clearStatusEXL s.status) := by
  unfold State.leaveLevel
  split <;> rfl

/-- The state after `ERET`. -/
def State.afterReturn (s : State) : State :=
  { s.leaveLevel with pc := s.returnTarget, isBranching := false, delaySlot := 0 }

theorem exec_eret_outside {s : State} (hs : s.isBranching = false) : exec .eret s = .next s.afterReturn :=
  outsideDelaySlot_outside (s.leaveLevel_isBranching.trans hs) _

theorem State.slot_afterReturn (s : State) (n : Reg) :
    s.afterReturn.slot n =
      if n = 12#5 then (if statusERL s.status then clearStatusERL s.status else clearStatusEXL s.status)
      else s.slot n := by
  rw [State.slot_congr (show s.afterReturn.cop0 = s.leaveLevel.cop0 from rfl), s.leaveLevel_eq, State.slot_setStatus]

/-- Settles O58: `ERL` selects the target and the bit cleared, and nothing else is written. -/
theorem exceptionReturn : Obligations.ExceptionReturn := by
  intro w s hw hs
  obtain ⟨hf, hdec⟩ := decode_of_cop0Co hw
  have hstatus := s.slot_afterReturn 12#5
  refine ⟨?_, s.afterReturn, exec_eret_outside hs, fun herl => ⟨if_pos herl, ?_⟩,
    fun herl => ⟨if_neg (Bool.eq_false_iff.1 herl), ?_⟩, rfl, rfl, ?_, fun n hn => ?_, ?_⟩
  · rw [hdec]
    simp [decodeCop0Co, hf]
  · exact hstatus.trans (if_pos herl)
  · exact hstatus.trans (if_neg (Bool.eq_false_iff.1 herl))
  · simp [State.afterReturn, s.leaveLevel_eq]
  · rw [s.slot_afterReturn, if_neg (by simpa using hn)]
  · rw [State.afterReturn, s.leaveLevel_eq]
    exact ⟨sameGpr_refl s, samePairs_refl s, sameMem_refl s, samePorts_refl s, sameLatches_refl s⟩

/-! ### `EI` and `DI` (R286, R287) -/

theorem statusKSU_eq_zero_iff (w : Word) : statusKSU w = 0#2 ↔ w.getLsbD 3 = false ∧ w.getLsbD 4 = false := by
  have hbit : ∀ b < 2, (statusKSU w).getLsbD b = w.getLsbD (3 + b) := fun b hb => by simp [statusKSU, hb]
  constructor
  · intro h
    rw [h] at hbit
    exact ⟨(hbit 0 (by decide)).symm, (hbit 1 (by decide)).symm⟩
  · rintro ⟨h3, h4⟩
    apply BitVec.eq_of_getLsbD_eq
    intro b hb
    rw [hbit b hb]
    interval_cases b
    exacts [h3, h4]

theorem mayChangeEIE_iff (s : State) : mayChangeEIE s.status = true ↔ MayChangeEIE s := by
  simp only [mayChangeEIE, MayChangeEIE, Bool.or_eq_true, beq_iff_eq, statusKSU_eq_zero_iff, or_assoc]
  rfl

/-- Settles O59: the condition decides whether the instruction is a write of `Status` or nothing. -/
theorem interruptEnableInstructions : Obligations.InterruptEnableInstructions := by
  intro w s
  rw [← mayChangeEIE_iff]
  refine ⟨fun hw => ⟨?eiWord, fun h => completesWithSlot ?eiSets, fun h => completesWithNothing ?eiKeeps⟩,
    fun hw => ⟨?diWord, fun h => completesWithSlot ?diClears, fun h => completesWithNothing ?diKeeps⟩⟩
  case eiWord | diWord =>
    obtain ⟨hf, hdec⟩ := decode_of_cop0Co hw
    rw [hdec]
    simp [decodeCop0Co, hf]
  case eiSets | diClears => exact congrArg (State.finish · .next) (if_pos h)
  case eiKeeps | diKeeps => exact congrArg (State.finish · .next) (if_neg h)

end Sys2Proof.Machine
end

section
/-! PROOFS. What the other input ports do (`70_reset_and_hazards.md` R340 to R349, `60_exceptions.md` R312), that an
instruction placed at the fetch address is what the next step runs (R346, R347), and the words the spec writes out. -/

namespace Sys2Proof.Machine

open Sys2Proof.Claims

/-! ### The other input ports -/

/-- Settles O6: the strobe takes registers and slots from the reset state, and memory and ports from the old one. -/
theorem resetStrobe : Obligations.ResetStrobe := by
  intro s
  have hslot := State.slot_congr (show s.strobeReset.cop0 = State.reset.cop0 from rfl)
  refine ⟨s.strobeReset, rfl, rfl, rfl, rfl, rfl, rfl, rfl, fun r => ?_, ⟨rfl, rfl, rfl, rfl⟩, ?_, fun n hn => ?_,
    sameMem_refl s, samePorts_refl s⟩
  · exact (State.reg_congr rfl r).trans (reg_reset r)
  · rw [hslot, slot_reset, if_pos rfl]
  · rw [hslot, slot_reset, if_neg hn]

/-- Settles O7: `set_pc` writes `pc` and the branch state only. -/
theorem setPc : Obligations.SetPc := by
  intro s entry hr
  exact ⟨_, State.setPc_eq_next.2 ⟨hr, rfl⟩, rfl, rfl, rfl, rfl, sameGpr_refl s, samePairs_refl s, sameSlots_refl s,
    sameMem_refl s, samePorts_refl s, sameLatches_refl s⟩

/-- The table of `INT_LINES` holds the model's lines and masks. -/
theorem lineMask_rows : ∀ p ∈ [(0, 0x00000400#32), (1, 0x00000800#32), (2, 0x00008000#32)],
    p.1 ≤ 2 ∧ lineMask p.1 = p.2 := by decide

/-- Settles O8: asserting a line is one write of `Cause`. -/
theorem requestInterrupt : Obligations.RequestInterrupt := by
  refine fun s hr => ⟨fun p hp => ?_, fun line hline => ?_⟩
  · obtain ⟨hle, hmask⟩ := lineMask_rows p hp
    rw [← hmask]
    refine ⟨_, State.requestInterrupt_eq_next.2 ⟨hr, hle, rfl⟩, s.slot_assertLines _ 13#5, fun n hn => ?_,
      samePc_refl s, sameGpr_refl s, samePairs_refl s, sameMem_refl s, samePorts_refl s, sameLatches_refl s⟩
    rw [s.slot_assertLines, if_neg (by simpa using hn)]
  · simp [strobe, State.requestInterrupt, hr, hline]

/-- Settles O9: each of the three asks first whether a reset has completed. -/
theorem strobesBeforeResetRefused : Obligations.StrobesBeforeResetRefused := by
  intro s hr
  refine ⟨?_, fun entry => ?_, fun line => ?_⟩
  · simp [strobe, step, hr]
  · simp [strobe, State.setPc, hr]
  · simp [strobe, State.requestInterrupt, hr]

/-! ### A placed instruction -/

/-- The bytes of a word, joined again little-endian (R70). -/
theorem wordOfBytes_bytes (w : Word) :
    wordOfBytes (BitVec.ofNat 8 w.toNat) (BitVec.ofNat 8 (w.toNat >>> 8)) (BitVec.ofNat 8 (w.toNat >>> 16))
      (BitVec.ofNat 8 (w.toNat >>> 24)) = w := by
  apply BitVec.eq_of_toNat_eq
  have hw := w.isLt
  simp only [wordOfBytes, BitVec.toNat_append, BitVec.toNat_ofNat, Nat.shiftRight_eq_div_pow]
  rw [← Nat.shiftLeft_add_eq_or_of_lt (by omega), ← Nat.shiftLeft_add_eq_or_of_lt (by omega),
    ← Nat.shiftLeft_add_eq_or_of_lt (by omega), Nat.shiftLeft_eq, Nat.shiftLeft_eq, Nat.shiftLeft_eq]
  omega

theorem decodeTableWord_of_decode {w : Word} {i : Instr} (h : decode w = .ok i) :
    decodeTableWord 32 w.toNat = some i := by
  simp only [decodeTableWord, bytesOfTableWord, Nat.mod_eq_of_lt w.isLt, decodeBytes, wordOfBytes_bytes, h]
  rfl

/-- The fetch from a byte array starts at the routed cell. -/
theorem fetchCell_eq_some {s : State} {cell : Nat} (h : s.fetchCell = some cell) :
    s.pcAligned = true ∧ ∃ r offset, route s.pc = .array r offset ∧ cell = cellOf r offset := by
  unfold State.fetchCell at h
  split at h
  · next halign =>
    refine ⟨halign, ?_⟩
    split at h
    · next r offset hroute => exact ⟨r, offset, hroute, (Option.some.inj h).symm⟩
    · cases h
  · cases h

/-- The boot vector is the first byte of boot ROM (R30, R40). -/
theorem fetchCell_resetPc {s : State} (h : s.pc = Config.resetPc) : s.fetchCell = some (cellOf .bootRom 0) := by
  have hroute : route Config.resetPc = .array .bootRom 0 := by decide
  unfold State.fetchCell State.pcAligned
  rw [h, if_pos (by decide), hroute]

/-- Placing a word makes it what the next step fetches, in a state that may step: at the cell of `pc`, or at the boot
vector with `pc` moved there. -/
theorem withFetchWord_fetchable (s : State) (w : Word) :
    (s.withFetchWord 32 w.toNat).resetDone = true ∧
      ∃ cell, (s.withFetchWord 32 w.toNat).fetchCell = some cell ∧
        (s.withFetchWord 32 w.toNat).mem = s.mem.writeLE cell (BitVec.ofNat 128 w.toNat) 4 := by
  unfold State.withFetchWord
  rw [Nat.mod_eq_of_lt w.isLt]
  split
  · next cell hcell => exact ⟨rfl, cell, hcell, rfl⟩
  · exact ⟨rfl, cellOf .bootRom 0, fetchCell_resetPc rfl, rfl⟩

/-- A fetch from a byte array answers the word stored there. -/
theorem fetch_of_written {s : State} {m : Memory} {cell : Nat} {w : Word} (hm : m.wf)
    (hcell : s.fetchCell = some cell) (hmem : s.mem = m.writeLE cell (BitVec.ofNat 128 w.toNat) 4) : s.fetch.1 = w := by
  obtain ⟨-, r, offset, hroute, rfl⟩ := fetchCell_eq_some hcell
  obtain ⟨hread, -⟩ := (readsBus_fetch s).array r offset hroute
  apply BitVec.eq_of_toNat_eq
  rw [hread, hmem, ← toNat_readLE _ _ _ (by decide), Memory.toNat_readLE_writeLE hm _ _ _ (by decide),
    BitVec.toNat_ofNat]
  have hw := w.isLt
  omega

/-- Settles O12: the placed word is fetched, and by the round trip decodes to the instruction. -/
theorem placedInstructionRunsNext : Obligations.PlacedInstructionRunsNext := by
  intro s i hm hwf
  have hdec := decodeEncodeRoundTrip i hwf
  obtain ⟨hr, cell, hcell, hmem⟩ := withFetchWord_fetchable s (encode i)
  have hfetch := fetch_of_written hm hcell hmem
  refine ⟨decodeTableWord_of_decode hdec, hfetch, ?_⟩
  rw [step_eq hr (fetchCell_eq_some hcell).1, executeWord_ok (hfetch ▸ hdec)]

/-! ### The words of the spec -/

/-- Settles O1: each word evaluated. -/
theorem specWordsDecode : Obligations.SpecWordsDecode := by
  unfold Obligations.SpecWordsDecode
  decide

end Sys2Proof.Machine
end

section
/-! PROOFS. The mode (`60_exceptions.md` R320, R321, `20_memory.md` R60). Writing `Status.KSU` commutes with every
operation of the machine: those that leave `Status` alone because it is one slot, those that change it because the bits
they read and write are others. An instruction is made of these operations and of values that do not depend on `KSU`. -/

namespace Sys2Proof.Machine

open Sys2Proof.Claims

/-! ### The field (R21) -/

/-- `Status.KSU <- k`, every other bit kept. -/
def setStatusKSU (k : BitVec 2) (w : Word) : Word := (w &&& 0xFFFFFFE7#32) ||| k.setWidth 32 <<< 3

theorem withKSU_eq (k : BitVec 2) (s : State) : withKSU k s = s.setStatus (setStatusKSU k s.status) := rfl

theorem getLsbD_setStatusKSU (k : BitVec 2) (w : Word) (b : Nat) :
    (setStatusKSU k w).getLsbD b = if b = 3 ∨ b = 4 then k.getLsbD (b - 3) else w.getLsbD b := by
  have hkept : (w &&& 0xFFFFFFE7#32).getLsbD b = (w.getLsbD b && decide (b ≠ 3) && decide (b ≠ 4)) := by
    rw [← getLsbD_and_not_bit, ← getLsbD_and_not_bit, BitVec.and_assoc]
    congr 2
  rw [setStatusKSU, BitVec.getLsbD_or, hkept, BitVec.getLsbD_shiftLeft, BitVec.getLsbD_setWidth]
  obtain hlow | hfield | hhigh : b < 3 ∨ (b = 3 ∨ b = 4) ∨ 5 ≤ b := by omega
  · simp [hlow, show b ≠ 3 by omega, show b ≠ 4 by omega]
  · obtain rfl | rfl := hfield <;> simp
  · simp [BitVec.getLsbD_of_ge k (b - 3) (by omega), show b ≠ 3 by omega, show b ≠ 4 by omega]

section
variable (k : BitVec 2) (w : Word)

theorem statusEXL_setStatusKSU : statusEXL (setStatusKSU k w) = statusEXL w := getLsbD_setStatusKSU k w 1

theorem statusERL_setStatusKSU : statusERL (setStatusKSU k w) = statusERL w := getLsbD_setStatusKSU k w 2

theorem vectorBase_setStatusKSU : vectorBase (setStatusKSU k w) = vectorBase w := by
  rw [vectorBase, vectorBase, show statusBEV (setStatusKSU k w) = statusBEV w from getLsbD_setStatusKSU k w 22]

/-- A function of the single bits that leaves bits 3 and 4 as they are commutes with the write of the field. -/
theorem setStatusKSU_comm {f : Word → Word} (g : Nat → Bool → Bool) (h : ∀ w b, (f w).getLsbD b = g b (w.getLsbD b))
    (hfield : ∀ b, b = 3 ∨ b = 4 → ∀ x, g b x = x) : f (setStatusKSU k w) = setStatusKSU k (f w) := by
  apply BitVec.eq_of_getLsbD_eq
  intro b _
  simp only [h, getLsbD_setStatusKSU]
  split
  · next hb => exact hfield b hb _
  · rfl

theorem setStatusEXL_setStatusKSU : setStatusEXL (setStatusKSU k w) = setStatusKSU k (setStatusEXL w) :=
  setStatusKSU_comm k w (fun b x => x || decide (b = 1)) getLsbD_setStatusEXL (by simp)

theorem clearStatusEXL_setStatusKSU : clearStatusEXL (setStatusKSU k w) = setStatusKSU k (clearStatusEXL w) :=
  setStatusKSU_comm k w (fun b x => x && decide (b ≠ 1)) getLsbD_clearStatusEXL (by simp)

theorem clearStatusERL_setStatusKSU : clearStatusERL (setStatusKSU k w) = setStatusKSU k (clearStatusERL w) :=
  setStatusKSU_comm k w (fun b x => x && decide (b ≠ 2)) getLsbD_clearStatusERL (by simp)

end

/-! ### What does not depend on `KSU` -/

section
variable (k : BitVec 2) (s : State)

theorem withKSU_pc : (withKSU k s).pc = s.pc := rfl

theorem withKSU_isBranching : (withKSU k s).isBranching = s.isBranching := rfl

theorem withKSU_effectiveAddress (base : Reg) (offset : BitVec 16) :
    (withKSU k s).effectiveAddress base offset = s.effectiveAddress base offset := rfl

theorem withKSU_low (r : Reg) : (withKSU k s).low r = s.low r := rfl

theorem withKSU_word (r : Reg) : (withKSU k s).word r = s.word r := rfl

theorem withKSU_status : (withKSU k s).status = setStatusKSU k s.status := s.slot_setSlot_self _ _

theorem withKSU_slot {n : Reg} (h : n ≠ 12#5) : (withKSU k s).slot n = s.slot n := s.slot_setSlot_of_ne _ h

theorem withKSU_cause : (withKSU k s).cause = s.cause := withKSU_slot k s (by decide)

theorem withKSU_returnTarget : (withKSU k s).returnTarget = s.returnTarget := by
  unfold State.returnTarget
  rw [withKSU_status, statusERL_setStatusKSU, withKSU_slot k s (by decide), withKSU_slot k s (by decide)]

/-! ### Operations that commute with the write of `KSU` -/

theorem withKSU_setReg (r : Reg) (v : QWord) : (withKSU k s).setReg r v = withKSU k (s.setReg r v) := by
  unfold State.setReg
  split <;> rfl

theorem withKSU_setSlot {n : Reg} (h : n ≠ 12#5) (v : Word) :
    (withKSU k s).setSlot n v = withKSU k (s.setSlot n v) := by
  have hstatus : (s.setSlot n v).status = s.status := s.slot_setSlot_of_ne v h.symm
  have hn : slotStatus.toNat ≠ n.toNat := fun he => h (BitVec.eq_of_toNat_eq he.symm)
  rw [withKSU_eq, withKSU_eq, hstatus]
  refine State.ext_fields rfl rfl rfl rfl rfl rfl rfl rfl rfl rfl rfl ?_ rfl rfl rfl rfl
  exact Vector.set_comm (hi := slotStatus.isLt) (hj := n.isLt) _ _ hn

theorem withKSU_setCause (v : Word) : (withKSU k s).setCause v = withKSU k (s.setCause v) :=
  withKSU_setSlot k s (by decide) v

theorem withKSU_setEPC (v : Word) : (withKSU k s).setEPC v = withKSU k (s.setEPC v) :=
  withKSU_setSlot k s (by decide) v

/-- The last write of `Status` stands. -/
theorem setStatus_setStatus (v w : Word) : (s.setStatus v).setStatus w = s.setStatus w :=
  State.ext_fields rfl rfl rfl rfl rfl rfl rfl rfl rfl rfl rfl (Vector.set_set (hi := slotStatus.isLt) ..) rfl rfl rfl
    rfl

/-- A change of `Status` that does not touch `KSU`. -/
theorem withKSU_setStatus {f : Word → Word} (h : ∀ w, f (setStatusKSU k w) = setStatusKSU k (f w)) :
    (withKSU k s).setStatus (f (withKSU k s).status) = withKSU k (s.setStatus (f s.status)) := by
  have hstatus : (s.setStatus (f s.status)).status = f s.status := s.slot_setSlot_self _ _
  rw [withKSU_status, h, withKSU_eq, withKSU_eq, setStatus_setStatus, setStatus_setStatus, hstatus]

theorem withKSU_leaveLevel : (withKSU k s).leaveLevel = withKSU k s.leaveLevel := by
  unfold State.leaveLevel
  rw [withKSU_setStatus k s (clearStatusERL_setStatusKSU k), withKSU_setStatus k s (clearStatusEXL_setStatusKSU k),
    withKSU_status, statusERL_setStatusKSU]
  split <;> rfl

/-- `Raise` reads `EXL` and `BEV` and sets `EXL` (R300, R303). -/
theorem withKSU_raise (code : ExcCode) (slot : Bool) :
    (withKSU k s).raise code slot = ((s.raise code slot).1, withKSU k (s.raise code slot).2) := by
  unfold State.raise
  simp only [withKSU_status, statusEXL_setStatusKSU, vectorBase_setStatusKSU, withKSU_cause, withKSU_setCause]
  split
  · rfl
  · simp only [withKSU_pc, withKSU_setEPC, withKSU_cause, withKSU_setCause,
      withKSU_setStatus k _ (setStatusEXL_setStatusKSU k)]

theorem withKSU_takeException (code : ExcCode) :
    (withKSU k s).takeException code = withKSU k (s.takeException code) := by
  unfold State.takeException
  rw [withKSU_isBranching, withKSU_raise]
  rfl

theorem withKSU_assertLines (mask : Word) : (withKSU k s).assertLines mask = withKSU k (s.assertLines mask) := by
  unfold State.assertLines
  rw [withKSU_cause, withKSU_setCause]

theorem withKSU_peripheralRead (p : Peripheral) (a : PAddr) (w : Width) :
    (withKSU k s).peripheralRead p a w = ((s.peripheralRead p a w).1, withKSU k (s.peripheralRead p a w).2) :=
  congrArg (fun t : State => (_, { t with freeIndex := s.freeIndex + 1 })) (withKSU_assertLines k (s.emit _) _)

theorem withKSU_peripheralWrite (p : Peripheral) (a : PAddr) (w : Width) (v : QWord) :
    (withKSU k s).peripheralWrite p a w v = withKSU k (s.peripheralWrite p a w v) :=
  congrArg (fun t : State => { t with freeIndex := s.freeIndex + 1 }) (withKSU_assertLines k (s.emit _) _)

theorem withKSU_memRead (w : Width) (va : VAddr) :
    (withKSU k s).memRead w va = ((s.memRead w va).1, withKSU k (s.memRead w va).2) := by
  unfold State.memRead
  split
  · rfl
  · split
    · simp only [withKSU_peripheralRead]
    · simp only [withKSU_peripheralRead]
  · rfl

theorem withKSU_memWrite (w : Width) (va : VAddr) (v : QWord) :
    (withKSU k s).memWrite w va v = withKSU k (s.memWrite w va v) := by
  unfold State.memWrite
  split
  · rfl
  · rfl
  · split
    · simp only [withKSU_peripheralWrite]
    · simp only [withKSU_peripheralWrite]
  · rfl

theorem withKSU_advance : (withKSU k s).advance = withKSU k s.advance := by
  unfold State.advance
  rw [withKSU_isBranching]
  split <;> rfl

theorem withKSU_outsideDelaySlot {answer answer' : Host.Outcome State Fault Refusal}
    (h : answer' = mapNext (withKSU k) answer) :
    outsideDelaySlot (withKSU k s) answer' = mapNext (withKSU k) (outsideDelaySlot s answer) := by
  cases hs : s.isBranching with
  | false => rw [outsideDelaySlot_outside hs, outsideDelaySlot_outside (s := withKSU k s) hs, h]
  | true => rw [outsideDelaySlot_in_slot hs, outsideDelaySlot_in_slot (s := withKSU k s) hs]; rfl

/-- Whatever the outcome. -/
theorem withKSU_finish (out : Control) : (withKSU k s).finish out = mapNext (withKSU k) (s.finish out) := by
  cases out with
  | next => exact congrArg Host.Outcome.next (withKSU_advance k s)
  | taken | skip | redirect => exact withKSU_outsideDelaySlot k s rfl
  | exception code => exact congrArg Host.Outcome.next (withKSU_takeException k s code)


/-! ### The shapes of an instruction's meaning -/

theorem withKSU_setLow (r : Reg) (v : DWord) : (withKSU k s).setLow r v = withKSU k (s.setLow r v) :=
  withKSU_setReg k s r _

theorem withKSU_setWord (r : Reg) (w : Word) : (withKSU k s).setWord r w = withKSU k (s.setWord r w) :=
  withKSU_setReg k s r _

/-- A 64-bit register write and outcome Next. -/
theorem withKSU_setLow_finish (r : Reg) (v : DWord) :
    ((withKSU k s).setLow r v).finish .next = mapNext (withKSU k) ((s.setLow r v).finish .next) := by
  rw [withKSU_setLow, withKSU_finish]

/-- A jump or branch that links. -/
theorem withKSU_linkThen (r : Reg) (out : Control) :
    (withKSU k s).linkThen r out = mapNext (withKSU k) (s.linkThen r out) := by
  refine withKSU_outsideDelaySlot k s ?_
  rw [withKSU_setLow]
  exact withKSU_finish k _ out

theorem withKSU_withBadVAddr (ea : VAddr) : (withKSU k s).withBadVAddr ea = withKSU k (s.withBadVAddr ea) := by
  have hslot : (withKSU k s).slot slotBadVAddr = s.slot slotBadVAddr := withKSU_slot k s (by decide)
  unfold State.withBadVAddr
  rw [hslot, withKSU_setSlot k s (by decide)]
  rfl

theorem withKSU_addressError (code : ExcCode) (ea : VAddr) :
    (withKSU k s).addressError code ea = mapNext (withKSU k) (s.addressError code ea) := by
  rw [State.addressError_eq, State.addressError_eq, withKSU_withBadVAddr, withKSU_takeException]
  rfl

theorem withKSU_alignedLoad (w : Width) (base : Reg) (offset : BitVec 16) {write : State → QWord → State}
    (h : ∀ t v, write (withKSU k t) v = withKSU k (write t v)) :
    (withKSU k s).alignedLoad w base offset write = mapNext (withKSU k) (s.alignedLoad w base offset write) := by
  unfold State.alignedLoad
  simp only [withKSU_effectiveAddress, withKSU_memRead, h, withKSU_finish, withKSU_addressError]
  split <;> rfl

/-- A load into the low half. -/
theorem withKSU_loadLow (w : Width) (rt base : Reg) (offset : BitVec 16) (value : QWord → DWord) :
    (withKSU k s).alignedLoad w base offset (fun t v => t.setLow rt (value v)) =
      mapNext (withKSU k) (s.alignedLoad w base offset (fun t v => t.setLow rt (value v))) :=
  withKSU_alignedLoad k s w base offset fun t _ => withKSU_setLow k t rt _

theorem withKSU_alignedStore (w : Width) (base : Reg) (offset : BitVec 16) (v : QWord) :
    (withKSU k s).alignedStore w base offset v = mapNext (withKSU k) (s.alignedStore w base offset v) := by
  unfold State.alignedStore
  simp only [withKSU_effectiveAddress, withKSU_memWrite, withKSU_finish, withKSU_addressError]
  split <;> rfl

theorem withKSU_mergeLoadWord (rt base : Reg) (offset : BitVec 16) (f : BitVec 2 → Word → Word → Word) :
    (withKSU k s).mergeLoadWord rt base offset f = mapNext (withKSU k) (s.mergeLoadWord rt base offset f) := by
  unfold State.mergeLoadWord
  simp only [withKSU_effectiveAddress, withKSU_word, withKSU_memRead, withKSU_setWord, withKSU_finish]

theorem withKSU_mergeLoadDouble (rt base : Reg) (offset : BitVec 16) (f : BitVec 3 → DWord → DWord → DWord) :
    (withKSU k s).mergeLoadDouble rt base offset f = mapNext (withKSU k) (s.mergeLoadDouble rt base offset f) := by
  unfold State.mergeLoadDouble
  simp only [withKSU_effectiveAddress, withKSU_low, withKSU_memRead, withKSU_setLow, withKSU_finish]

theorem withKSU_mergeStoreWord (rt base : Reg) (offset : BitVec 16) (f : BitVec 2 → Word → Word → Word) :
    (withKSU k s).mergeStoreWord rt base offset f = mapNext (withKSU k) (s.mergeStoreWord rt base offset f) := by
  unfold State.mergeStoreWord
  simp only [withKSU_effectiveAddress, withKSU_word, withKSU_memRead, withKSU_memWrite, withKSU_finish]

theorem withKSU_mergeStoreDouble (rt base : Reg) (offset : BitVec 16) (f : BitVec 3 → DWord → DWord → DWord) :
    (withKSU k s).mergeStoreDouble rt base offset f = mapNext (withKSU k) (s.mergeStoreDouble rt base offset f) := by
  unfold State.mergeStoreDouble
  simp only [withKSU_effectiveAddress, withKSU_low, withKSU_memRead, withKSU_memWrite, withKSU_finish]

end

/-- `MOVZ` and `MOVN` test a general register. -/
theorem exec_movz_withKSU (k : BitVec 2) (s : State) (rd rs rt : Reg) :
    exec (.movz rd rs rt) (withKSU k s) = mapNext (withKSU k) (exec (.movz rd rs rt) s) := by
  by_cases h : (s.reg rt).setWidth 64 = 0#64
  · rw [exec_movz_of_zero h, exec_movz_of_zero (s := withKSU k s) h]
    exact withKSU_setLow_finish k s rd _
  · rw [exec_movz_of_ne_zero h, exec_movz_of_ne_zero (s := withKSU k s) h, withKSU_finish]

theorem exec_movn_withKSU (k : BitVec 2) (s : State) (rd rs rt : Reg) :
    exec (.movn rd rs rt) (withKSU k s) = mapNext (withKSU k) (exec (.movn rd rs rt) s) := by
  by_cases h : (s.reg rt).setWidth 64 = 0#64
  · rw [exec_movn_of_zero h, exec_movn_of_zero (s := withKSU k s) h, withKSU_finish]
  · rw [exec_movn_of_ne_zero h, exec_movn_of_ne_zero (s := withKSU k s) h]
    exact withKSU_setLow_finish k s rd _

theorem exec_mfc0_withKSU (k : BitVec 2) (s : State) (rt : Reg) {n : Reg} (h : n ≠ 12#5) :
    exec (.mfc0 rt n) (withKSU k s) = mapNext (withKSU k) (exec (.mfc0 rt n) s) := by
  show ((withKSU k s).setWord rt ((withKSU k s).slot n)).finish .next = _
  rw [withKSU_slot k s h]
  exact withKSU_setLow_finish k s rt _

theorem exec_mtc0_withKSU (k : BitVec 2) (s : State) (rt : Reg) {n : Reg} (h : n ≠ 12#5) :
    exec (.mtc0 rt n) (withKSU k s) = mapNext (withKSU k) (exec (.mtc0 rt n) s) := by
  show ((withKSU k s).setSlot n (s.word rt)).finish .next = _
  rw [withKSU_setSlot k s h]
  exact withKSU_finish k _ .next

theorem exec_eret_withKSU (k : BitVec 2) (s : State) :
    exec .eret (withKSU k s) = mapNext (withKSU k) (exec .eret s) := by
  show (withKSU k s).leaveLevel.finish (.redirect (withKSU k s).returnTarget) = _
  rw [withKSU_leaveLevel, withKSU_returnTarget]
  exact withKSU_finish k _ (.redirect s.returnTarget)

/-- Settles O31, by the shape of each instruction's meaning: its operations commute with the write of `KSU`, and its
operands do not depend on it. -/
theorem modeDoesNotMatter : Obligations.ModeDoesNotMatter := by
  intro i s k hei hdi hmfc0 hmtc0
  cases i with
  | j index => exact withKSU_finish k s (.taken (jumpTarget s.pc index))
  | jr rs => exact withKSU_finish k s (.taken (s.word rs))
  | jal | jalr | bltzal | bgezal | bltzall | bgezall => exact withKSU_linkThen k s _ _
  | beq | bne | blez | bgtz | bltz | bgez => exact withKSU_finish k s _
  | beql | bnel | blezl | bgtzl | bltzl | bgezl => exact withKSU_finish k s _
  | lb rt base offset => exact withKSU_loadLow k s .byte rt base offset fun v => (v.setWidth 8).signExtend 64
  | lbu rt base offset => exact withKSU_loadLow k s .byte rt base offset fun v => (v.setWidth 8).setWidth 64
  | lh rt base offset => exact withKSU_loadLow k s .half rt base offset fun v => (v.setWidth 16).signExtend 64
  | lhu rt base offset => exact withKSU_loadLow k s .half rt base offset fun v => (v.setWidth 16).setWidth 64
  | lw rt base offset => exact withKSU_loadLow k s .word rt base offset fun v => sextWord (v.setWidth 32)
  | lwu rt base offset => exact withKSU_loadLow k s .word rt base offset fun v => zextWord (v.setWidth 32)
  | ld rt base offset => exact withKSU_loadLow k s .double rt base offset fun v => v.setWidth 64
  | lq rt base offset =>
    exact withKSU_alignedLoad k s .quad base offset (write := fun t v => t.setReg rt v) fun t v =>
      withKSU_setReg k t rt v
  | sb rt base offset => exact withKSU_alignedStore k s .byte base offset (s.reg rt)
  | sh rt base offset => exact withKSU_alignedStore k s .half base offset (s.reg rt)
  | sw rt base offset => exact withKSU_alignedStore k s .word base offset (s.reg rt)
  | sd rt base offset => exact withKSU_alignedStore k s .double base offset (s.reg rt)
  | sq rt base offset => exact withKSU_alignedStore k s .quad base offset (s.reg rt)
  | lwl rt base offset => exact withKSU_mergeLoadWord k s rt base offset fun o => mergeLeftWord (lwlTable o)
  | lwr rt base offset => exact withKSU_mergeLoadWord k s rt base offset fun o => mergeRightWord (lwrTable o)
  | ldl rt base offset => exact withKSU_mergeLoadDouble k s rt base offset fun o => mergeLeftDouble (ldlTable o)
  | ldr rt base offset => exact withKSU_mergeLoadDouble k s rt base offset fun o => mergeRightDouble (ldrTable o)
  | swl rt base offset => exact withKSU_mergeStoreWord k s rt base offset fun o => mergeRightWord (swlTable o)
  | swr rt base offset => exact withKSU_mergeStoreWord k s rt base offset fun o => mergeLeftWord (swrTable o)
  | sdl rt base offset => exact withKSU_mergeStoreDouble k s rt base offset fun o => mergeRightDouble (sdlTable o)
  | sdr rt base offset => exact withKSU_mergeStoreDouble k s rt base offset fun o => mergeLeftDouble (sdrTable o)
  | add | addu | sub | subu | addi | addiu | dadd | daddu | dsub | dsubu | daddi | daddiu =>
    exact withKSU_setLow_finish k s _ _
  | and | or | xor | nor | andi | ori | xori | lui | slt | sltu | slti | sltiu => exact withKSU_setLow_finish k s _ _
  | sll | srl | sra | sllv | srlv | srav | dsll | dsrl | dsra | dsll32 | dsrl32 | dsra32 | dsllv | dsrlv | dsrav =>
    exact withKSU_setLow_finish k s _ _
  | mult | multu => exact withKSU_setLow_finish k (s.setPair _ _) _ _
  | mult1 | multu1 => exact withKSU_setLow_finish k (s.setPair1 _ _) _ _
  | div | divu => exact withKSU_finish k (s.setPair _ _) .next
  | div1 | divu1 => exact withKSU_finish k (s.setPair1 _ _) .next
  | mfhi | mflo | mfhi1 | mflo1 => exact withKSU_setLow_finish k s _ _
  | mthi rs => exact withKSU_finish k (s.setPair s.lo (s.low rs)) .next
  | mtlo rs => exact withKSU_finish k (s.setPair (s.low rs) s.hi) .next
  | mthi1 rs => exact withKSU_finish k (s.setPair1 s.lo1 (s.low rs)) .next
  | mtlo1 rs => exact withKSU_finish k (s.setPair1 (s.low rs) s.hi1) .next
  | movz rd rs rt => exact exec_movz_withKSU k s rd rs rt
  | movn rd rs rt => exact exec_movn_withKSU k s rd rs rt
  | nop | sync | cache | pref | tlbr | tlbwi | tlbwr | tlbp => exact withKSU_finish k s .next
  | syscall => exact withKSU_finish k s (.exception .sys)
  | breakpoint => exact withKSU_finish k s (.exception .bp)
  | mfc0 rt n => exact exec_mfc0_withKSU k s rt fun h => hmfc0 rt (h ▸ rfl)
  | mtc0 rt n => exact exec_mtc0_withKSU k s rt fun h => hmtc0 rt (h ▸ rfl)
  | eret => exact exec_eret_withKSU k s
  | ei => exact absurd rfl hei
  | di => exact absurd rfl hdi

end Sys2Proof.Machine
end
